-- ==== Sys2Proof/Word.lean ====
section
/-! DEFINITION. The word types of the machine: 32-bit values, bytes, register indices (00_scope section 5, 10_state R10).
Bit slices, sign extension and byte order are in Decode.lean and Machine/Ops.lean. -/

namespace Sys2Proof

/-- A register value, the pc, an immediate, an address or an instruction word: 32 bits (00_scope section 5). The spec's
`u(v)` is `BitVec.toNat`, its `s(v)` is `BitVec.toInt`. -/
abbrev Word := BitVec 32

/-- One byte of memory, the addressable unit (10_state R25). -/
abbrev Byte := BitVec 8

/-- A register index: "a 5-bit number, 0 to 31, taken from the instruction fields" (10_state R10). -/
abbrev RegIdx := BitVec 5

end Sys2Proof
end

