-- ==== Sys2Proof/Syntax.lean ====
section
/-! DEFINITION. The instructions: one constructor per row of spec/opcode_table.json, in its order (30_encoding R62, R68).

An operand `imm` is the 32-bit immediate the decoder outputs (40_decoder R80), already sign-extended and in place, not
the raw fragments; WellFormed.lean says which values a format can produce. Bits the decoder does not examine (funct7 of
the rows of 30_encoding R65, funct3 of JALR, R66, bits 31:7 of ECALL, R70) are no operands (log entry 8). -/

namespace Sys2Proof

/-- The 39 operations of 30_encoding R62 with the operands the execute stage uses. -/
inductive Instr where
  /-- LUI (48_upper_imm R190) -/
  | lui (rd : RegIdx) (imm : Word)
  /-- AUIPC (48_upper_imm R191) -/
  | auipc (rd : RegIdx) (imm : Word)
  /-- JAL (44_jumps R151) -/
  | jal (rd : RegIdx) (imm : Word)
  /-- JALR (44_jumps R152) -/
  | jalr (rd rs1 : RegIdx) (imm : Word)
  /-- BEQ (45_branches R161) -/
  | beq (rs1 rs2 : RegIdx) (imm : Word)
  /-- BNE (45_branches R162) -/
  | bne (rs1 rs2 : RegIdx) (imm : Word)
  /-- BLT (45_branches R163) -/
  | blt (rs1 rs2 : RegIdx) (imm : Word)
  /-- BGE (45_branches R164) -/
  | bge (rs1 rs2 : RegIdx) (imm : Word)
  /-- BLTU (45_branches R165) -/
  | bltu (rs1 rs2 : RegIdx) (imm : Word)
  /-- BGEU (45_branches R166) -/
  | bgeu (rs1 rs2 : RegIdx) (imm : Word)
  /-- LB (46_loads R171) -/
  | lb (rd rs1 : RegIdx) (imm : Word)
  /-- LH (46_loads R172) -/
  | lh (rd rs1 : RegIdx) (imm : Word)
  /-- LW (46_loads R173) -/
  | lw (rd rs1 : RegIdx) (imm : Word)
  /-- LBU (46_loads R174) -/
  | lbu (rd rs1 : RegIdx) (imm : Word)
  /-- LHU (46_loads R175) -/
  | lhu (rd rs1 : RegIdx) (imm : Word)
  /-- SB: base `rs1`, data `rs2` (47_stores R181) -/
  | sb (rs1 rs2 : RegIdx) (imm : Word)
  /-- SH: base `rs1`, data `rs2` (47_stores R182) -/
  | sh (rs1 rs2 : RegIdx) (imm : Word)
  /-- SW: base `rs1`, data `rs2` (47_stores R183) -/
  | sw (rs1 rs2 : RegIdx) (imm : Word)
  /-- ADDI (42_alu R131) -/
  | addi (rd rs1 : RegIdx) (imm : Word)
  /-- SLTI (43_compare R145) -/
  | slti (rd rs1 : RegIdx) (imm : Word)
  /-- SLTIU (43_compare R146) -/
  | sltiu (rd rs1 : RegIdx) (imm : Word)
  /-- XORI (42_alu R135) -/
  | xori (rd rs1 : RegIdx) (imm : Word)
  /-- ORI (42_alu R134) -/
  | ori (rd rs1 : RegIdx) (imm : Word)
  /-- ANDI (42_alu R132) -/
  | andi (rd rs1 : RegIdx) (imm : Word)
  /-- SLLI (42_alu R136); the count is `imm[4:0]`, the rest of `imm` is kept as decoded (42_alu R133, 40_decoder R88) -/
  | slli (rd rs1 : RegIdx) (imm : Word)
  /-- SRLI (42_alu R137); the count is `imm[4:0]`, the rest of `imm` is kept as decoded (42_alu R133, 40_decoder R88) -/
  | srli (rd rs1 : RegIdx) (imm : Word)
  /-- SRAI (42_alu R138); the count is `imm[4:0]`, the rest of `imm` is kept as decoded (42_alu R133, 40_decoder R88) -/
  | srai (rd rs1 : RegIdx) (imm : Word)
  /-- ADD (42_alu R123) -/
  | add (rd rs1 rs2 : RegIdx)
  /-- SUB (42_alu R124) -/
  | sub (rd rs1 rs2 : RegIdx)
  /-- SLL (42_alu R128) -/
  | sll (rd rs1 rs2 : RegIdx)
  /-- SLT (43_compare R143) -/
  | slt (rd rs1 rs2 : RegIdx)
  /-- SLTU (43_compare R144) -/
  | sltu (rd rs1 rs2 : RegIdx)
  /-- XOR (42_alu R127) -/
  | xor (rd rs1 rs2 : RegIdx)
  /-- SRL (42_alu R129) -/
  | srl (rd rs1 rs2 : RegIdx)
  /-- SRA (42_alu R130) -/
  | sra (rd rs1 rs2 : RegIdx)
  /-- OR (42_alu R126) -/
  | or (rd rs1 rs2 : RegIdx)
  /-- AND (42_alu R125) -/
  | and (rd rs1 rs2 : RegIdx)
  /-- ECALL, any word of opcode 0x73 (49_system R195, R196) -/
  | ecall
  /-- UNKNOWN, the sentinel operation, with the raw word it reports (49_system R197) -/
  | unknown (w : Word)
deriving DecidableEq, Repr

end Sys2Proof
end

