-- ==== Sys2Proof/WellFormed.lean ====
section
/-! DEFINITION. Which instructions an encoding can produce: the immediate lies in the set of values its format builds
(30_encoding R54 to R58), the alternate forms have a nonzero funct7 where it is part of the immediate (R64), and the
word of the sentinel operation is one no row of the opcode map names (R67). -/

namespace Sys2Proof

/-- A value of the I or the S immediate: 12 bits, sign-extended, -2048 .. 2047 (30_encoding R54, R55). -/
def fitsSext12 (imm : Word) : Bool := (imm.setWidth 12).signExtend 32 == imm

/-- A value of the B immediate: 13 bits, sign-extended, even, -4096 .. 4094 (30_encoding R56). -/
def fitsB (imm : Word) : Bool := (imm.setWidth 13).signExtend 32 == imm && !imm.getLsbD 0

/-- A value of the U immediate: the low 12 bits are zero (30_encoding R57). -/
def fitsU (imm : Word) : Bool := imm.setWidth 12 == 0#12

/-- A value of the J immediate: 21 bits, sign-extended, even, -1048576 .. 1048574 (30_encoding R58). -/
def fitsJ (imm : Word) : Bool := (imm.setWidth 21).signExtend 32 == imm && !imm.getLsbD 0

/-- The funct7 bits inside an I immediate, `imm[11:5] = w[31:25]` (40_decoder R88). -/
def funct7InImm (imm : Word) : BitVec 7 := imm.extractLsb' 5 7

/-- The ten opcode values that name a family (30_encoding R61). -/
def familyOpcodes : List (BitVec 7) :=
  [0x37#7, 0x17#7, 0x6F#7, 0x67#7, 0x63#7, 0x03#7, 0x23#7, 0x13#7, 0x33#7, 0x73#7]

/-- The words that resolve to `Unknown`, in the four cases (a) to (d) of 30_encoding R67. -/
def isUnknownWord (w : Word) : Bool :=
  let opcode := w.extractLsb' 0 7
  let funct3 := w.extractLsb' 12 3
  !(familyOpcodes.contains opcode)
    || (opcode == 0x63#7 && [0b010#3, 0b011#3].contains funct3)
    || (opcode == 0x03#7 && [0b011#3, 0b110#3, 0b111#3].contains funct3)
    || (opcode == 0x23#7 && [0b011#3, 0b100#3, 0b101#3, 0b110#3, 0b111#3].contains funct3)

/-- Whether some instruction word decodes to this instruction. -/
def Instr.wellFormed : Instr → Bool
  | .lui _ imm => fitsU imm
  | .auipc _ imm => fitsU imm
  | .jal _ imm => fitsJ imm
  | .jalr _ _ imm => fitsSext12 imm
  | .beq _ _ imm => fitsB imm
  | .bne _ _ imm => fitsB imm
  | .blt _ _ imm => fitsB imm
  | .bge _ _ imm => fitsB imm
  | .bltu _ _ imm => fitsB imm
  | .bgeu _ _ imm => fitsB imm
  | .lb _ _ imm => fitsSext12 imm
  | .lh _ _ imm => fitsSext12 imm
  | .lw _ _ imm => fitsSext12 imm
  | .lbu _ _ imm => fitsSext12 imm
  | .lhu _ _ imm => fitsSext12 imm
  | .sb _ _ imm => fitsSext12 imm
  | .sh _ _ imm => fitsSext12 imm
  | .sw _ _ imm => fitsSext12 imm
  | .addi _ _ imm => fitsSext12 imm
  | .slti _ _ imm => fitsSext12 imm
  | .sltiu _ _ imm => fitsSext12 imm
  | .xori _ _ imm => fitsSext12 imm
  | .ori _ _ imm => fitsSext12 imm
  | .andi _ _ imm => fitsSext12 imm
  | .slli _ _ imm => fitsSext12 imm
  | .srli _ _ imm => fitsSext12 imm && funct7InImm imm == 0#7
  | .srai _ _ imm => fitsSext12 imm && funct7InImm imm != 0#7
  | .add _ _ _ => true
  | .sub _ _ _ => true
  | .sll _ _ _ => true
  | .slt _ _ _ => true
  | .sltu _ _ _ => true
  | .xor _ _ _ => true
  | .srl _ _ _ => true
  | .sra _ _ _ => true
  | .or _ _ _ => true
  | .and _ _ _ => true
  | .ecall => true
  | .unknown w => isUnknownWord w

end Sys2Proof
end

