-- ==== Sys2Proof/Decode.lean ====
section
/-! DEFINITION. The instruction decoder (40_decoder, 30_encoding): field extraction, the immediate mux, operation
resolution, the decoded instruction; the opcode table as data; decoding from bytes; and the encoder.

Decoding a word is total: every one of the 2^32 words decodes (40_decoder R82), the words the opcode map does not name
to the sentinel operation. Only a run of fewer than four bytes is rejected, by name. -/

namespace Sys2Proof

/-! ### The decoder block -/

/-- The `op` output of the decoder: the closed enumeration of 39 operations (30_encoding R62). -/
inductive Operation where
  | lui | auipc | jal | jalr | beq | bne | blt | bge | bltu | bgeu | lb | lh | lw | lbu | lhu | sb | sh | sw
  | addi | slti | sltiu | xori | ori | andi | slli | srli | srai | add | sub | sll | slt | sltu | xor | srl
  | sra | or | and | ecall | unknown
deriving DecidableEq, Repr

/-- The decoder's output record, a fresh value for every word (40_decoder R80, R87). -/
structure DecodedInstruction where
  raw    : Word
  opcode : BitVec 7
  rd     : RegIdx
  rs1    : RegIdx
  rs2    : RegIdx
  funct3 : BitVec 3
  funct7 : BitVec 7
  imm    : Word
  op     : Operation
deriving DecidableEq, Repr

/-- The immediate format an opcode selects: five formats, or none (30_encoding R53). -/
inductive ImmFormat where
  | J | U | I | S | B | none
deriving DecidableEq, Repr

/-- I immediate (30_encoding R54). -/
def immI (w : Word) : Word := (w.extractLsb' 20 12).signExtend 32

/-- S immediate (30_encoding R55). -/
def immS (w : Word) : Word := (w.extractLsb' 25 7 ++ w.extractLsb' 7 5).signExtend 32

/-- B immediate (30_encoding R56). -/
def immB (w : Word) : Word :=
  (w.extractLsb' 31 1 ++ w.extractLsb' 7 1 ++ w.extractLsb' 25 6 ++ w.extractLsb' 8 4 ++ 0#1).signExtend 32

/-- U immediate (30_encoding R57). -/
def immU (w : Word) : Word := w.extractLsb' 12 20 ++ 0#12

/-- J immediate (30_encoding R58; bits 31 to 20 all take the sign, 90_conflicts C6). -/
def immJ (w : Word) : Word :=
  (w.extractLsb' 31 1 ++ w.extractLsb' 12 8 ++ w.extractLsb' 20 1 ++ w.extractLsb' 21 10 ++ 0#1).signExtend 32

/-- The five-way mux on the opcode alone, none for every other opcode (30_encoding R53). -/
def formatOf (opcode : BitVec 7) : ImmFormat :=
  match opcode with
  | 0x6F#7 => .J
  | 0x37#7 => .U
  | 0x17#7 => .U
  | 0x03#7 => .I
  | 0x67#7 => .I
  | 0x13#7 => .I
  | 0x23#7 => .S
  | 0x63#7 => .B
  | _ => .none

/-- The immediate of a word under a format; zero for none (30_encoding R54 to R59). -/
def immediate (f : ImmFormat) (w : Word) : Word :=
  match f with
  | .J => immJ w
  | .U => immU w
  | .I => immI w
  | .S => immS w
  | .B => immB w
  | .none => 0x00000000#32

/-- Branches by `funct3` (30_encoding R63, column 0x63). -/
def resolveBranch (funct3 : BitVec 3) : Operation :=
  match funct3 with
  | 0b000#3 => .beq
  | 0b001#3 => .bne
  | 0b100#3 => .blt
  | 0b101#3 => .bge
  | 0b110#3 => .bltu
  | 0b111#3 => .bgeu
  | _ => .unknown

/-- Loads by `funct3` (30_encoding R63, column 0x03). -/
def resolveLoad (funct3 : BitVec 3) : Operation :=
  match funct3 with
  | 0b000#3 => .lb
  | 0b001#3 => .lh
  | 0b010#3 => .lw
  | 0b100#3 => .lbu
  | 0b101#3 => .lhu
  | _ => .unknown

/-- Stores by `funct3` (30_encoding R63, column 0x23). -/
def resolveStore (funct3 : BitVec 3) : Operation :=
  match funct3 with
  | 0b000#3 => .sb
  | 0b001#3 => .sh
  | 0b010#3 => .sw
  | _ => .unknown

/-- Register-immediate operations by `funct3`, and by `funct7` for 101 (30_encoding R63, column 0x13, R64, R65). -/
def resolveRegImm (funct3 : BitVec 3) (alt : Bool) : Operation :=
  match funct3 with
  | 0b000#3 => .addi
  | 0b001#3 => .slli
  | 0b010#3 => .slti
  | 0b011#3 => .sltiu
  | 0b100#3 => .xori
  | 0b101#3 => if alt then .srai else .srli
  | 0b110#3 => .ori
  | _ => .andi

/-- Register-register operations by `funct3`, and by `funct7` for 000 and 101 (30_encoding R63, column 0x33, R64, R65). -/
def resolveRegReg (funct3 : BitVec 3) (alt : Bool) : Operation :=
  match funct3 with
  | 0b000#3 => if alt then .sub else .add
  | 0b001#3 => .sll
  | 0b010#3 => .slt
  | 0b011#3 => .sltu
  | 0b100#3 => .xor
  | 0b101#3 => if alt then .sra else .srl
  | 0b110#3 => .or
  | _ => .and

/-- Operation resolution (40_decoder R85): the opcode selects a family (30_encoding R61), `funct3` and the one test
"is `funct7` nonzero" the member; every unmatched path is the sentinel (40_decoder R86). -/
def resolve (opcode : BitVec 7) (funct3 : BitVec 3) (funct7 : BitVec 7) : Operation :=
  match opcode with
  | 0x37#7 => .lui
  | 0x17#7 => .auipc
  | 0x6F#7 => .jal
  | 0x67#7 => .jalr
  | 0x73#7 => .ecall
  | 0x63#7 => resolveBranch funct3
  | 0x03#7 => resolveLoad funct3
  | 0x23#7 => resolveStore funct3
  | 0x13#7 => resolveRegImm funct3 (funct7 != 0#7)
  | 0x33#7 => resolveRegReg funct3 (funct7 != 0#7)
  | _ => .unknown

/-- The decoder: a pure function of one word (40_decoder R80, R82, R83, R85; the fields by 30_encoding R52). -/
def decodeFields (w : Word) : DecodedInstruction where
  raw    := w
  opcode := w.extractLsb' 0 7
  rd     := w.extractLsb' 7 5
  rs1    := w.extractLsb' 15 5
  rs2    := w.extractLsb' 20 5
  funct3 := w.extractLsb' 12 3
  funct7 := w.extractLsb' 25 7
  imm    := immediate (formatOf (w.extractLsb' 0 7)) w
  op     := resolve (w.extractLsb' 0 7) (w.extractLsb' 12 3) (w.extractLsb' 25 7)

/-! ### The decoded instruction with its operands -/

/-- The operands each operation takes from the decoder's outputs (10_state R14). -/
def DecodedInstruction.toInstr (d : DecodedInstruction) : Instr :=
  match d.op with
  | .lui => .lui d.rd d.imm
  | .auipc => .auipc d.rd d.imm
  | .jal => .jal d.rd d.imm
  | .jalr => .jalr d.rd d.rs1 d.imm
  | .beq => .beq d.rs1 d.rs2 d.imm
  | .bne => .bne d.rs1 d.rs2 d.imm
  | .blt => .blt d.rs1 d.rs2 d.imm
  | .bge => .bge d.rs1 d.rs2 d.imm
  | .bltu => .bltu d.rs1 d.rs2 d.imm
  | .bgeu => .bgeu d.rs1 d.rs2 d.imm
  | .lb => .lb d.rd d.rs1 d.imm
  | .lh => .lh d.rd d.rs1 d.imm
  | .lw => .lw d.rd d.rs1 d.imm
  | .lbu => .lbu d.rd d.rs1 d.imm
  | .lhu => .lhu d.rd d.rs1 d.imm
  | .sb => .sb d.rs1 d.rs2 d.imm
  | .sh => .sh d.rs1 d.rs2 d.imm
  | .sw => .sw d.rs1 d.rs2 d.imm
  | .addi => .addi d.rd d.rs1 d.imm
  | .slti => .slti d.rd d.rs1 d.imm
  | .sltiu => .sltiu d.rd d.rs1 d.imm
  | .xori => .xori d.rd d.rs1 d.imm
  | .ori => .ori d.rd d.rs1 d.imm
  | .andi => .andi d.rd d.rs1 d.imm
  | .slli => .slli d.rd d.rs1 d.imm
  | .srli => .srli d.rd d.rs1 d.imm
  | .srai => .srai d.rd d.rs1 d.imm
  | .add => .add d.rd d.rs1 d.rs2
  | .sub => .sub d.rd d.rs1 d.rs2
  | .sll => .sll d.rd d.rs1 d.rs2
  | .slt => .slt d.rd d.rs1 d.rs2
  | .sltu => .sltu d.rd d.rs1 d.rs2
  | .xor => .xor d.rd d.rs1 d.rs2
  | .srl => .srl d.rd d.rs1 d.rs2
  | .sra => .sra d.rd d.rs1 d.rs2
  | .or => .or d.rd d.rs1 d.rs2
  | .and => .and d.rd d.rs1 d.rs2
  | .ecall => .ecall
  | .unknown => .unknown d.raw

/-- The operation an instruction performs. -/
def Instr.op : Instr → Operation
  | .lui _ _ => .lui
  | .auipc _ _ => .auipc
  | .jal _ _ => .jal
  | .jalr _ _ _ => .jalr
  | .beq _ _ _ => .beq
  | .bne _ _ _ => .bne
  | .blt _ _ _ => .blt
  | .bge _ _ _ => .bge
  | .bltu _ _ _ => .bltu
  | .bgeu _ _ _ => .bgeu
  | .lb _ _ _ => .lb
  | .lh _ _ _ => .lh
  | .lw _ _ _ => .lw
  | .lbu _ _ _ => .lbu
  | .lhu _ _ _ => .lhu
  | .sb _ _ _ => .sb
  | .sh _ _ _ => .sh
  | .sw _ _ _ => .sw
  | .addi _ _ _ => .addi
  | .slti _ _ _ => .slti
  | .sltiu _ _ _ => .sltiu
  | .xori _ _ _ => .xori
  | .ori _ _ _ => .ori
  | .andi _ _ _ => .andi
  | .slli _ _ _ => .slli
  | .srli _ _ _ => .srli
  | .srai _ _ _ => .srai
  | .add _ _ _ => .add
  | .sub _ _ _ => .sub
  | .sll _ _ _ => .sll
  | .slt _ _ _ => .slt
  | .sltu _ _ _ => .sltu
  | .xor _ _ _ => .xor
  | .srl _ _ _ => .srl
  | .sra _ _ _ => .sra
  | .or _ _ _ => .or
  | .and _ _ _ => .and
  | .ecall => .ecall
  | .unknown _ => .unknown

/-- Decode one instruction word: total (40_decoder R82). -/
def decode (w : Word) : Instr := (decodeFields w).toInstr

/-- Why a run of bytes holds no instruction. -/
inductive DecodeError where
  /-- fewer than four bytes: an instruction is exactly 32 bits long (30_encoding R50); safe -/
  | truncated
deriving DecidableEq, Repr

/-- The word of four bytes, the first least significant (20_memory R32, R36). -/
def wordOfBytes (b0 b1 b2 b3 : Byte) : Word := b3 ++ b2 ++ b1 ++ b0

/-- Decode the first four bytes of a run, with the rest of the run (30_encoding R50). -/
def decodeBytes : List Byte → Except DecodeError (Instr × List Byte)
  | b0 :: b1 :: b2 :: b3 :: rest => .ok (decode (wordOfBytes b0 b1 b2 b3), rest)
  | _ => .error .truncated

/-- The instruction read from an opcode-table word of `nbits` bits: bits above `nbits` are zero, the word is laid out in
memory order, least significant byte first, and decoded from there. -/
def decodeTableWord (nbits w : Nat) : Option Instr :=
  let word : Word := BitVec.ofNat 32 (w % 2 ^ nbits)
  match decodeBytes [word.extractLsb' 0 8, word.extractLsb' 8 8, word.extractLsb' 16 8, word.extractLsb' 24 8] with
  | .ok (i, _) => some i
  | .error _ => none

/-! ### The opcode map as a table -/

/-- A row of opcode_table.json: a word is of this row when its bits under `mask` are `pattern` (30_encoding R68). -/
structure OpcodeRow where
  op      : Operation
  mask    : Word
  pattern : Word
deriving DecidableEq, Repr

/-- Rows 1 to 18: upper immediates, jumps, branches, loads, stores (30_encoding R68). -/
def opcodeRowsControlMemory : List OpcodeRow :=
  [⟨.lui, 0x0000007F#32, 0x00000037#32⟩,
   ⟨.auipc, 0x0000007F#32, 0x00000017#32⟩,
   ⟨.jal, 0x0000007F#32, 0x0000006F#32⟩,
   ⟨.jalr, 0x0000007F#32, 0x00000067#32⟩,
   ⟨.beq, 0x0000707F#32, 0x00000063#32⟩,
   ⟨.bne, 0x0000707F#32, 0x00001063#32⟩,
   ⟨.blt, 0x0000707F#32, 0x00004063#32⟩,
   ⟨.bge, 0x0000707F#32, 0x00005063#32⟩,
   ⟨.bltu, 0x0000707F#32, 0x00006063#32⟩,
   ⟨.bgeu, 0x0000707F#32, 0x00007063#32⟩,
   ⟨.lb, 0x0000707F#32, 0x00000003#32⟩,
   ⟨.lh, 0x0000707F#32, 0x00001003#32⟩,
   ⟨.lw, 0x0000707F#32, 0x00002003#32⟩,
   ⟨.lbu, 0x0000707F#32, 0x00004003#32⟩,
   ⟨.lhu, 0x0000707F#32, 0x00005003#32⟩,
   ⟨.sb, 0x0000707F#32, 0x00000023#32⟩,
   ⟨.sh, 0x0000707F#32, 0x00001023#32⟩,
   ⟨.sw, 0x0000707F#32, 0x00002023#32⟩]

/-- Rows 19 to 37: the register-immediate and the register-register operations (30_encoding R68). -/
def opcodeRowsAlu : List OpcodeRow :=
  [⟨.addi, 0x0000707F#32, 0x00000013#32⟩,
   ⟨.slti, 0x0000707F#32, 0x00002013#32⟩,
   ⟨.sltiu, 0x0000707F#32, 0x00003013#32⟩,
   ⟨.xori, 0x0000707F#32, 0x00004013#32⟩,
   ⟨.ori, 0x0000707F#32, 0x00006013#32⟩,
   ⟨.andi, 0x0000707F#32, 0x00007013#32⟩,
   ⟨.slli, 0x0000707F#32, 0x00001013#32⟩,
   ⟨.srli, 0xFE00707F#32, 0x00005013#32⟩,
   ⟨.srai, 0x0000707F#32, 0x00005013#32⟩,
   ⟨.add, 0xFE00707F#32, 0x00000033#32⟩,
   ⟨.sub, 0x0000707F#32, 0x00000033#32⟩,
   ⟨.sll, 0x0000707F#32, 0x00001033#32⟩,
   ⟨.slt, 0x0000707F#32, 0x00002033#32⟩,
   ⟨.sltu, 0x0000707F#32, 0x00003033#32⟩,
   ⟨.xor, 0x0000707F#32, 0x00004033#32⟩,
   ⟨.srl, 0xFE00707F#32, 0x00005033#32⟩,
   ⟨.sra, 0x0000707F#32, 0x00005033#32⟩,
   ⟨.or, 0x0000707F#32, 0x00006033#32⟩,
   ⟨.and, 0x0000707F#32, 0x00007033#32⟩]

/-- The opcode table in its order, ECALL and the catch-all row last (30_encoding R68). -/
def opcodeTable : List OpcodeRow :=
  opcodeRowsControlMemory ++ opcodeRowsAlu ++
  [⟨.ecall, 0x0000007F#32, 0x00000073#32⟩,
   ⟨.unknown, 0x00000000#32, 0x00000000#32⟩]

/-- Reading the table: the first row that matches wins (30_encoding R68). -/
def opcodeTableLookup (w : Word) : Option Operation :=
  (opcodeTable.find? fun r => w &&& r.mask == r.pattern).map (·.op)

/-! ### The encoder, from the layouts of 30_encoding R51 -/

/-- R layout: funct7, rs2, rs1, funct3, rd, opcode. -/
def encodeR (funct7 : BitVec 7) (rs2 rs1 : RegIdx) (funct3 : BitVec 3) (rd : RegIdx) (opcode : BitVec 7) : Word :=
  funct7 ++ rs2 ++ rs1 ++ funct3 ++ rd ++ opcode

/-- I layout: imm[11:0], rs1, funct3, rd, opcode. -/
def encodeI (imm : Word) (rs1 : RegIdx) (funct3 : BitVec 3) (rd : RegIdx) (opcode : BitVec 7) : Word :=
  imm.extractLsb' 0 12 ++ rs1 ++ funct3 ++ rd ++ opcode

/-- S layout: imm[11:5], rs2, rs1, funct3, imm[4:0], opcode. -/
def encodeS (imm : Word) (rs2 rs1 : RegIdx) (funct3 : BitVec 3) (opcode : BitVec 7) : Word :=
  imm.extractLsb' 5 7 ++ rs2 ++ rs1 ++ funct3 ++ imm.extractLsb' 0 5 ++ opcode

/-- B layout: imm[12], imm[10:5], rs2, rs1, funct3, imm[4:1], imm[11], opcode. -/
def encodeB (imm : Word) (rs2 rs1 : RegIdx) (funct3 : BitVec 3) (opcode : BitVec 7) : Word :=
  imm.extractLsb' 12 1 ++ imm.extractLsb' 5 6 ++ rs2 ++ rs1 ++ funct3 ++ imm.extractLsb' 1 4
    ++ imm.extractLsb' 11 1 ++ opcode

/-- U layout: imm[31:12], rd, opcode. -/
def encodeU (imm : Word) (rd : RegIdx) (opcode : BitVec 7) : Word :=
  imm.extractLsb' 12 20 ++ rd ++ opcode

/-- J layout: imm[20], imm[10:1], imm[11], imm[19:12], rd, opcode. -/
def encodeJ (imm : Word) (rd : RegIdx) (opcode : BitVec 7) : Word :=
  imm.extractLsb' 20 1 ++ imm.extractLsb' 1 10 ++ imm.extractLsb' 11 1 ++ imm.extractLsb' 12 8 ++ rd ++ opcode

/-- The word of an instruction: the canonical encoding of each row (30_encoding R68, columns canonical_match and
canonical_mask of opcode_table.json); the word itself for the sentinel. The funct7 of SLLI, SRLI and SRAI lies in the
immediate. -/
def encode : Instr → Word
  | .lui rd imm => encodeU imm rd 0x37#7
  | .auipc rd imm => encodeU imm rd 0x17#7
  | .jal rd imm => encodeJ imm rd 0x6F#7
  | .jalr rd rs1 imm => encodeI imm rs1 0b000#3 rd 0x67#7
  | .beq rs1 rs2 imm => encodeB imm rs2 rs1 0b000#3 0x63#7
  | .bne rs1 rs2 imm => encodeB imm rs2 rs1 0b001#3 0x63#7
  | .blt rs1 rs2 imm => encodeB imm rs2 rs1 0b100#3 0x63#7
  | .bge rs1 rs2 imm => encodeB imm rs2 rs1 0b101#3 0x63#7
  | .bltu rs1 rs2 imm => encodeB imm rs2 rs1 0b110#3 0x63#7
  | .bgeu rs1 rs2 imm => encodeB imm rs2 rs1 0b111#3 0x63#7
  | .lb rd rs1 imm => encodeI imm rs1 0b000#3 rd 0x03#7
  | .lh rd rs1 imm => encodeI imm rs1 0b001#3 rd 0x03#7
  | .lw rd rs1 imm => encodeI imm rs1 0b010#3 rd 0x03#7
  | .lbu rd rs1 imm => encodeI imm rs1 0b100#3 rd 0x03#7
  | .lhu rd rs1 imm => encodeI imm rs1 0b101#3 rd 0x03#7
  | .sb rs1 rs2 imm => encodeS imm rs2 rs1 0b000#3 0x23#7
  | .sh rs1 rs2 imm => encodeS imm rs2 rs1 0b001#3 0x23#7
  | .sw rs1 rs2 imm => encodeS imm rs2 rs1 0b010#3 0x23#7
  | .addi rd rs1 imm => encodeI imm rs1 0b000#3 rd 0x13#7
  | .slti rd rs1 imm => encodeI imm rs1 0b010#3 rd 0x13#7
  | .sltiu rd rs1 imm => encodeI imm rs1 0b011#3 rd 0x13#7
  | .xori rd rs1 imm => encodeI imm rs1 0b100#3 rd 0x13#7
  | .ori rd rs1 imm => encodeI imm rs1 0b110#3 rd 0x13#7
  | .andi rd rs1 imm => encodeI imm rs1 0b111#3 rd 0x13#7
  | .slli rd rs1 imm => encodeI imm rs1 0b001#3 rd 0x13#7
  | .srli rd rs1 imm => encodeI imm rs1 0b101#3 rd 0x13#7
  | .srai rd rs1 imm => encodeI imm rs1 0b101#3 rd 0x13#7
  | .add rd rs1 rs2 => encodeR 0x00#7 rs2 rs1 0b000#3 rd 0x33#7
  | .sub rd rs1 rs2 => encodeR 0x20#7 rs2 rs1 0b000#3 rd 0x33#7
  | .sll rd rs1 rs2 => encodeR 0x00#7 rs2 rs1 0b001#3 rd 0x33#7
  | .slt rd rs1 rs2 => encodeR 0x00#7 rs2 rs1 0b010#3 rd 0x33#7
  | .sltu rd rs1 rs2 => encodeR 0x00#7 rs2 rs1 0b011#3 rd 0x33#7
  | .xor rd rs1 rs2 => encodeR 0x00#7 rs2 rs1 0b100#3 rd 0x33#7
  | .srl rd rs1 rs2 => encodeR 0x00#7 rs2 rs1 0b101#3 rd 0x33#7
  | .sra rd rs1 rs2 => encodeR 0x20#7 rs2 rs1 0b101#3 rd 0x33#7
  | .or rd rs1 rs2 => encodeR 0x00#7 rs2 rs1 0b110#3 rd 0x33#7
  | .and rd rs1 rs2 => encodeR 0x00#7 rs2 rs1 0b111#3 rd 0x33#7
  | .ecall => 0x00000073#32
  | .unknown w => w

end Sys2Proof
end

