-- ==== Sys2Proof/Machine/Flags.lean ====
section
/-! DEFINITION. The comparator. This hardware has no flags and no condition codes (10_state R20): a comparison goes
straight into a general register or into the choice of the next pc. -/

namespace Sys2Proof.Machine

/-- `eq`: all 32 bits equal (43_compare R141). -/
def cmpEq (a b : Word) : Bool := a == b

/-- `lt`: both operands read as two's-complement integers (43_compare R141). -/
def cmpLt (a b : Word) : Bool := decide (a.toInt < b.toInt)

/-- `ltu`: both operands read as unsigned integers (43_compare R141). -/
def cmpLtu (a b : Word) : Bool := decide (a.toNat < b.toNat)

/-- ISASIM's own formula for the unsigned comparison, `(a < b) XOR (a < 0) XOR (b < 0)` (43_compare R140). -/
def cmpLtuXor (a b : Word) : Bool := (cmpLt a b ^^ decide (a.toInt < 0)) ^^ decide (b.toInt < 0)

/-- A comparison bit as a 32-bit result, 1 when true and 0 when false (43_compare, section 2). -/
def boolWord (b : Bool) : Word := if b then 0x00000001#32 else 0x00000000#32

end Sys2Proof.Machine
end

