-- ==== Sys2Proof/Config.lean ====
section
/-! DEFINITION. What is fixed for this hardware (00_scope section 4, R5), and the values of the host's debug fields that
the spec leaves unstated (91_not_in_source N15). -/

namespace Sys2Proof

/-- The default of `MEM_SIZE`: 1,048,576 bytes (00_scope section 4). Any other size in the range below is an argument
of `Machine.State.resetWith` (R5; log entry 1). -/
def Config.defaultMemSize : Nat := 1048576

/-- The least `MEM_SIZE` (00_scope section 4, 92_eei_decisions D9). -/
def Config.minMemSize : Nat := 4

/-- The greatest `MEM_SIZE`, 2^31 (00_scope section 4, 92_eei_decisions D9). -/
def Config.maxMemSize : Nat := 2147483648

/-- The reset value of the pc (00_scope section 4, 70_reset R241). -/
def Config.resetPc : Word := 0x00000000#32

/-- Where the program image is placed (00_scope section 4, 70_reset R246). -/
def Config.imageBase : Nat := 0

/-- The register the ECALL halt test reads: `x[10]` (00_scope section 4, 49_system R195). -/
def Config.exitReg : RegIdx := 10#5

/-- The value the ECALL halt test compares it with (00_scope section 4, 49_system R195). -/
def Config.exitCode : Word := 0x0000000A#32

/-- What every byte of memory reads as after reset: "clears memory", taken as zero (70_reset R241, 92_eei_decisions D19;
log entry 5). -/
def Config.clearedByte : Byte := 0x00#8

/-- FREE VALUE. The host's step budget after the host's reset, as a function of the one before, `none`
standing for unbounded: the source does not state it (91_not_in_source N15; log entry 13). Outside the CORE. -/
opaque Config.budgetAfterReset : Option Nat → Option Nat

/-- FREE VALUE. The host's verbose flag after the host's reset, as a function of the one before: the source does not
state it (91_not_in_source N15; log entry 13). Outside the CORE. -/
opaque Config.verboseAfterReset : Bool → Bool

/-- FREE VALUE. The host's verbose flag at start: the source does not state it (log entry 13). Outside the CORE. -/
opaque Config.verboseAtStart : Bool

end Sys2Proof
end

