-- ==== Sys2Proof/Machine/State.lean ====
section
/-! DEFINITION. The architectural state (10_state), the reasons a step can stop, and the state after reset. -/

namespace Sys2Proof.Machine

/-- The whole state of the machine (10_state, section 9; R26 closes the list), and the parameter `MEM_SIZE`. -/
structure State where
  /-- `x[0]` to `x[31]` (10_state R10). Read and written through `State.reg` and `State.setReg` only, which hardwire
  `x[0]` to zero (R12, R13; log entry 11). -/
  regs    : Vector Word 32
  /-- the address of the next instruction to fetch, any byte address (10_state R16, R18) -/
  pc      : Word
  /-- the memory, the bytes that differ from the cleared byte, by strictly rising address (10_state R25, 20_memory R30;
  log entry 7) -/
  mem     : List Host.Cell
  /-- cleared by an exit ECALL, set by reset (10_state R21) -/
  running : Bool
  /-- set by a MemoryFault, cleared by reset (10_state R22) -/
  faulted : Bool
  /-- the parameter `MEM_SIZE` of this machine; no step changes it (00_scope R5, 10_state R27; log entry 1) -/
  memSize : Nat
deriving DecidableEq, Repr

/-- Why the machine stops. Each reason carries the state the machine is left in, since this hardware keeps it. -/
inductive Fault where
  /-- The outcome `Fault(MemoryFault, pc, addr)` (41_step_cycle R107, 60_exceptions R201, R203). Raised by the fetch of
  any step and by every load and store that touches a byte outside the memory. `pc` is the address of the instruction,
  `addr` the lowest address of the access, `stopped` the state it leaves: the state before, with `faulted` set. Safe
  (log entry 2). -/
  | memoryFault (pc addr : Word) (stopped : State)
  /-- No step is taken: `running = 0` or `faulted = 1` (41_step_cycle R101). Raised by `step` alone. `held` is the state,
  which the core holds unchanged. Safe (log entry 3). -/
  | noStep (held : State)
deriving DecidableEq, Repr

/-- Why an instruction has no meaning. -/
inductive Refusal where
  /-- An arm of `exec` that has no meaning yet. Raised by nothing: every arm has one. Safe. -/
  | notModelled (mnemonic : String)
deriving DecidableEq, Repr

/-- The state right after reset of a machine of `memSize` bytes: `pc = 0`, `x[2] = MEM_SIZE`, every other register and
every memory byte zero, `running = 1`, `faulted = 0` (70_reset R241, R242; log entries 4 and 5). -/
def State.resetWith (memSize : Nat) : State where
  regs    := (Vector.replicate 32 0x00000000#32).set 2 (BitVec.ofNat 32 memSize)
  pc      := Config.resetPc
  mem     := []
  running := true
  faulted := false
  memSize := memSize

/-- The state right after reset of the machine of the default size (00_scope section 4, 70_reset R241). -/
def State.reset : State := State.resetWith Config.defaultMemSize

end Sys2Proof.Machine
end

