-- ==== Sys2Proof/Machine/Ops.lean ====
section
/-! DEFINITION. The named operations over registers, pc and memory that every meaning uses, and the one exception of
this hardware. -/

namespace Sys2Proof.Machine

/-! ### Registers and pc -/

/-- Read of a general register; register 0 reads as zero through either port (10_state R12). -/
def State.reg (s : State) (r : RegIdx) : Word :=
  if r = 0#5 then 0x00000000#32 else s.regs[r.toNat]'(r.isLt)

/-- Write of a general register; a write to register 0 is discarded (10_state R13). -/
def State.setReg (s : State) (r : RegIdx) (v : Word) : State :=
  if r = 0#5 then s else { s with regs := s.regs.set r.toNat v r.isLt }

/-- The next-pc an instruction commits (10_state R17, 41_step_cycle R109). -/
def State.goto (s : State) (target : Word) : State := { s with pc := target }

/-- The default next-pc, `pc + 4` modulo 2^32 (41_step_cycle R105, 10_state R19). -/
def State.nextPc (s : State) : Word := s.pc + 4#32

/-- Commit of a register result and of the next-pc together (41_step_cycle R108, R109). -/
def State.writeBack (s : State) (rd : RegIdx) (v nextPc : Word) : State := (s.setReg rd v).goto nextPc

/-! ### Memory as data -/

/-- One byte of memory; an address that is not listed holds the cleared byte (log entry 5). -/
def Memory.read : List Host.Cell → Nat → Byte
  | [], _ => Config.clearedByte
  | (b, u) :: rest, a => if b = a then u else Memory.read rest a

/-- Write one byte, keeping the addresses rising and listing no cleared byte. -/
def Memory.write : List Host.Cell → Nat → Byte → List Host.Cell
  | [], a, v => if v = Config.clearedByte then [] else [(a, v)]
  | (b, u) :: rest, a, v =>
    if a < b then
      if v = Config.clearedByte then (b, u) :: rest else (a, v) :: (b, u) :: rest
    else if b = a then
      if v = Config.clearedByte then rest else (a, v) :: rest
    else (b, u) :: Memory.write rest a v

/-- Every listed address is at least `lo`, the addresses strictly rise, and no listed byte is the cleared byte. -/
def Memory.wfFrom : Nat → List Host.Cell → Bool
  | _, [] => true
  | lo, (a, v) :: rest => decide (lo ≤ a) && v != Config.clearedByte && Memory.wfFrom (a + 1) rest

/-- The canonical form of a memory, so that equal memories are equal lists. -/
def Memory.wf (m : List Host.Cell) : Bool := Memory.wfFrom 0 m

/-- Every listed address is below `size`. -/
def Memory.below (m : List Host.Cell) (size : Nat) : Bool := m.all fun c => decide (c.1 < size)

/-- Write bytes at rising addresses. -/
def Memory.writeBytes : List Host.Cell → Nat → List Byte → List Host.Cell
  | m, _, [] => m
  | m, a, b :: rest => Memory.writeBytes (Memory.write m a b) (a + 1) rest

/-- The bytes at `a` to `a + n - 1`. -/
def Memory.readBytes (m : List Host.Cell) (a : Nat) : Nat → List Byte
  | 0 => []
  | n + 1 => Memory.read m a :: Memory.readBytes m (a + 1) n

/-- The halfword at `a`, little-endian (20_memory R33). -/
def Memory.read16 (m : List Host.Cell) (a : Nat) : BitVec 16 := Memory.read m (a + 1) ++ Memory.read m a

/-- The word at `a`, little-endian (20_memory R33). -/
def Memory.read32 (m : List Host.Cell) (a : Nat) : BitVec 32 :=
  Memory.read m (a + 3) ++ Memory.read m (a + 2) ++ Memory.read m (a + 1) ++ Memory.read m a

/-- Byte `k` of a word, bits `8k+7 : 8k` (20_memory R34). -/
def byteOf (v : Word) (k : Nat) : Byte := v.extractLsb' (8 * k) 8

/-- The low `n` bytes of a word, least significant first (20_memory R34). -/
def lowBytes (v : Word) (n : Nat) : List Byte := (List.range n).map (byteOf v)

/-! ### The access primitives -/

/-- The bounds check: `u(addr) + n <= MEM_SIZE`, the sum in unbounded integers (20_memory R35). -/
def State.inBounds (s : State) (addr : Word) (n : Nat) : Bool := decide (addr.toNat + n ≤ s.memSize)

/-- `MemRead(addr, 1)`; `none` is the MemoryFault (20_memory R33, R35). -/
def State.memRead8 (s : State) (addr : Word) : Option (BitVec 8) :=
  if s.inBounds addr 1 then some (Memory.read s.mem addr.toNat) else none

/-- `MemRead(addr, 2)`; `none` is the MemoryFault (20_memory R33, R35). -/
def State.memRead16 (s : State) (addr : Word) : Option (BitVec 16) :=
  if s.inBounds addr 2 then some (Memory.read16 s.mem addr.toNat) else none

/-- `MemRead(addr, 4)`; `none` is the MemoryFault (20_memory R33, R35). -/
def State.memRead32 (s : State) (addr : Word) : Option (BitVec 32) :=
  if s.inBounds addr 4 then some (Memory.read32 s.mem addr.toNat) else none

/-- `MemWrite(addr, n, v)` with the `n` low bytes of `v`; `none` is the MemoryFault, with no byte written, not even
those inside the memory (20_memory R34, R35). -/
def State.memWrite (s : State) (addr : Word) (n : Nat) (v : Word) : Option State :=
  if s.inBounds addr n then some { s with mem := Memory.writeBytes s.mem addr.toNat (lowBytes v n) } else none

/-- Instruction fetch: `MemRead(pc, 4)`, at any pc, nothing cleared and nothing checked but the bounds
(20_memory R32, 41_step_cycle R103). -/
def State.fetch (s : State) : Option Word := s.memRead32 s.pc

/-! ### The exception and the stop -/

/-- Raising MemoryFault, the one exception of this hardware: no register, no memory byte and not the pc changes,
`faulted <- 1`, the outcome names the pc and the lowest address of the access (60_exceptions R203, R201). There is no
handler, no saved pc, no saved status and no mode (R209), and no return from it but the host's reset (R210). -/
def raiseMemoryFault (s : State) (addr : Word) : Host.Outcome State Fault Refusal :=
  .fault (.memoryFault s.pc addr { s with faulted := true })

/-- `halt`: `running <- 0` (49_system R195). -/
def State.halt (s : State) : State := { s with running := false }

/-- The step enable: `running = 1` and `faulted = 0` (41_step_cycle R101). -/
def State.enabled (s : State) : Bool := s.running && !s.faulted

/-! ### Completion of the memory instructions -/

/-- The end of a load: the extended value is written to `rd`, or the access faulted (46_loads R177). -/
def completeLoad (s : State) (rd : RegIdx) (ea : Word) (value : Option Word) : Host.Outcome State Fault Refusal :=
  match value with
  | some v => .next (s.writeBack rd v s.nextPc)
  | none => raiseMemoryFault s ea

/-- The end of a store: the written state goes on at the next instruction, or the access faulted (47_stores R184). -/
def completeStore (s : State) (ea : Word) (written : Option State) : Host.Outcome State Fault Refusal :=
  match written with
  | some t => .next (t.goto s.nextPc)
  | none => raiseMemoryFault s ea

end Sys2Proof.Machine
end

