-- ==== Sys2Proof/Machine/Operands.lean ====
section
/-! DEFINITION. The operand forms: addresses, targets and shift counts. The five immediates are in Decode.lean. -/

namespace Sys2Proof.Machine

/-- Base register plus displacement, modulo 2^32: the effective address of every load and store (46_loads R176,
47_stores R184). -/
def State.effAddr (s : State) (rs1 : RegIdx) (imm : Word) : Word := s.reg rs1 + imm

/-- The pc-relative target of JAL, of a taken branch, and the value of AUIPC: the sum modulo 2^32 with the address of
the instruction itself (10_state R16, R19). -/
def State.pcPlus (s : State) (imm : Word) : Word := s.pc + imm

/-- The register-relative target of JALR: all 32 bits of the sum are kept, bit 0 included (44_jumps R152). -/
def State.jalrTarget (s : State) (rs1 : RegIdx) (imm : Word) : Word := s.reg rs1 + imm

/-- The 5-bit shift count of a register or of an immediate, `v[4:0]` (42_alu R122, R133). -/
def shiftCount (v : Word) : Nat := (v.extractLsb' 0 5).toNat

end Sys2Proof.Machine
end

