-- ==== Sys2Proof/Machine/Branches.lean ====
section
/-! DEFINITION. The conditional branches, opcode 0x63 (45_branches). -/

namespace Sys2Proof.Machine

/-- The general form of a branch: `pc + imm` when taken, else the default next pc; no register is written
(45_branches R160). -/
def branch (taken : Bool) (imm : Word) (s : State) : Host.Outcome State Fault Refusal :=
  .next (s.goto (if taken then s.pcPlus imm else s.nextPc))

/-- BEQ: taken when equal (45_branches R161). -/
def execBeq (rs1 rs2 : RegIdx) (imm : Word) (s : State) : Host.Outcome State Fault Refusal :=
  branch (cmpEq (s.reg rs1) (s.reg rs2)) imm s

/-- BNE: taken when not equal (45_branches R162). -/
def execBne (rs1 rs2 : RegIdx) (imm : Word) (s : State) : Host.Outcome State Fault Refusal :=
  branch (!cmpEq (s.reg rs1) (s.reg rs2)) imm s

/-- BLT: taken when less, signed (45_branches R163). -/
def execBlt (rs1 rs2 : RegIdx) (imm : Word) (s : State) : Host.Outcome State Fault Refusal :=
  branch (cmpLt (s.reg rs1) (s.reg rs2)) imm s

/-- BGE: taken when not less, signed (45_branches R164). -/
def execBge (rs1 rs2 : RegIdx) (imm : Word) (s : State) : Host.Outcome State Fault Refusal :=
  branch (!cmpLt (s.reg rs1) (s.reg rs2)) imm s

/-- BLTU: taken when less, unsigned (45_branches R165). -/
def execBltu (rs1 rs2 : RegIdx) (imm : Word) (s : State) : Host.Outcome State Fault Refusal :=
  branch (cmpLtu (s.reg rs1) (s.reg rs2)) imm s

/-- BGEU: taken when not less, unsigned (45_branches R166). -/
def execBgeu (rs1 rs2 : RegIdx) (imm : Word) (s : State) : Host.Outcome State Fault Refusal :=
  branch (!cmpLtu (s.reg rs1) (s.reg rs2)) imm s

end Sys2Proof.Machine
end

