-- ==== Sys2Proof/Machine/Jumps.lean ====
section
/-! DEFINITION. The jumps (44_jumps). No target is checked (R154), no delay slot follows (R150). -/

namespace Sys2Proof.Machine

/-- JAL: `x[rd] <- pc + 4`, `pc <- pc + imm` (44_jumps R151). -/
def execJal (rd : RegIdx) (imm : Word) (s : State) : Host.Outcome State Fault Refusal :=
  .next (s.writeBack rd s.nextPc (s.pcPlus imm))

/-- JALR: `x[rd] <- pc + 4`, `pc <- x[rs1] + imm` with the old `x[rs1]` and bit 0 kept (44_jumps R152). -/
def execJalr (rd rs1 : RegIdx) (imm : Word) (s : State) : Host.Outcome State Fault Refusal :=
  .next (s.writeBack rd s.nextPc (s.jalrTarget rs1 imm))

end Sys2Proof.Machine
end

