-- ==== Sys2Proof/Machine/Loads.lean ====
section
/-! DEFINITION. The loads, opcode 0x03 (46_loads). The access is made, and can fault, also when `rd` is 0 (R177). -/

namespace Sys2Proof.Machine

/-- LB: one byte, sign-extended from bit 7 (46_loads R171). -/
def execLb (rd rs1 : RegIdx) (imm : Word) (s : State) : Host.Outcome State Fault Refusal :=
  completeLoad s rd (s.effAddr rs1 imm) ((s.memRead8 (s.effAddr rs1 imm)).map (·.signExtend 32))

/-- LH: two bytes, sign-extended from bit 15 (46_loads R172). -/
def execLh (rd rs1 : RegIdx) (imm : Word) (s : State) : Host.Outcome State Fault Refusal :=
  completeLoad s rd (s.effAddr rs1 imm) ((s.memRead16 (s.effAddr rs1 imm)).map (·.signExtend 32))

/-- LW: four bytes, no extension (46_loads R173). -/
def execLw (rd rs1 : RegIdx) (imm : Word) (s : State) : Host.Outcome State Fault Refusal :=
  completeLoad s rd (s.effAddr rs1 imm) (s.memRead32 (s.effAddr rs1 imm))

/-- LBU: one byte, zero-extended (46_loads R174). -/
def execLbu (rd rs1 : RegIdx) (imm : Word) (s : State) : Host.Outcome State Fault Refusal :=
  completeLoad s rd (s.effAddr rs1 imm) ((s.memRead8 (s.effAddr rs1 imm)).map (·.setWidth 32))

/-- LHU: two bytes, zero-extended (46_loads R175). -/
def execLhu (rd rs1 : RegIdx) (imm : Word) (s : State) : Host.Outcome State Fault Refusal :=
  completeLoad s rd (s.effAddr rs1 imm) ((s.memRead16 (s.effAddr rs1 imm)).map (·.setWidth 32))

end Sys2Proof.Machine
end

