-- ==== Sys2Proof/Machine/Alu.lean ====
section
/-! DEFINITION. The ALU and the two shared meanings of the ALU instructions (42_alu, 43_compare). -/

namespace Sys2Proof.Machine

/-- The function codes of the ALU (41_step_cycle R111). -/
inductive AluOp where
  | add | sub | and | or | xor | sll | srl | sra | slt | sltu
deriving DecidableEq, Repr

/-- The ALU: two 32-bit operands and a function code give one 32-bit result (42_alu R120, R121, R122; slt and sltu by
43_compare R141, R143, R144). -/
def alu (f : AluOp) (a b : Word) : Word :=
  match f with
  | .add => a + b
  | .sub => a - b
  | .and => a &&& b
  | .or => a ||| b
  | .xor => a ^^^ b
  | .sll => a <<< shiftCount b
  | .srl => a >>> shiftCount b
  | .sra => a.sshiftRight (shiftCount b)
  | .slt => boolWord (cmpLt a b)
  | .sltu => boolWord (cmpLtu a b)

/-- A register-register operation: `x[rd] <- f(x[rs1], x[rs2])`, next pc `pc + 4` (42_alu section 2). -/
def aluRegReg (f : AluOp) (rd rs1 rs2 : RegIdx) (s : State) : Host.Outcome State Fault Refusal :=
  .next (s.writeBack rd (alu f (s.reg rs1) (s.reg rs2)) s.nextPc)

/-- A register-immediate operation: `x[rd] <- f(x[rs1], imm)`, next pc `pc + 4` (42_alu section 3). -/
def aluRegImm (f : AluOp) (rd rs1 : RegIdx) (imm : Word) (s : State) : Host.Outcome State Fault Refusal :=
  .next (s.writeBack rd (alu f (s.reg rs1) imm) s.nextPc)

end Sys2Proof.Machine
end

