-- ==== Sys2Proof/Machine/RegImm.lean ====
section
/-! DEFINITION. The register-immediate instructions, opcode 0x13 (42_alu section 3, 43_compare section 2). -/

namespace Sys2Proof.Machine

/-- ADDI: wraps modulo 2^32 (42_alu R131). -/
def execAddi (rd rs1 : RegIdx) (imm : Word) (s : State) : Host.Outcome State Fault Refusal :=
  aluRegImm .add rd rs1 imm s

/-- SLTI: signed, writes 1 or 0 (43_compare R145). -/
def execSlti (rd rs1 : RegIdx) (imm : Word) (s : State) : Host.Outcome State Fault Refusal :=
  aluRegImm .slt rd rs1 imm s

/-- SLTIU: the sign-extended immediate read as unsigned, writes 1 or 0 (43_compare R146). -/
def execSltiu (rd rs1 : RegIdx) (imm : Word) (s : State) : Host.Outcome State Fault Refusal :=
  aluRegImm .sltu rd rs1 imm s

/-- XORI: bitwise with the sign-extended immediate (42_alu R135). -/
def execXori (rd rs1 : RegIdx) (imm : Word) (s : State) : Host.Outcome State Fault Refusal :=
  aluRegImm .xor rd rs1 imm s

/-- ORI: bitwise with the sign-extended immediate (42_alu R134). -/
def execOri (rd rs1 : RegIdx) (imm : Word) (s : State) : Host.Outcome State Fault Refusal :=
  aluRegImm .or rd rs1 imm s

/-- ANDI: bitwise with the sign-extended immediate (42_alu R132). -/
def execAndi (rd rs1 : RegIdx) (imm : Word) (s : State) : Host.Outcome State Fault Refusal :=
  aluRegImm .and rd rs1 imm s

/-- SLLI: count `imm[4:0]`, R133 (42_alu R136). -/
def execSlli (rd rs1 : RegIdx) (imm : Word) (s : State) : Host.Outcome State Fault Refusal :=
  aluRegImm .sll rd rs1 imm s

/-- SRLI: count `imm[4:0]`, R133; zeros enter at bit 31 (42_alu R137). -/
def execSrli (rd rs1 : RegIdx) (imm : Word) (s : State) : Host.Outcome State Fault Refusal :=
  aluRegImm .srl rd rs1 imm s

/-- SRAI: count `imm[4:0]`, R133; copies of bit 31 enter (42_alu R138). -/
def execSrai (rd rs1 : RegIdx) (imm : Word) (s : State) : Host.Outcome State Fault Refusal :=
  aluRegImm .sra rd rs1 imm s

end Sys2Proof.Machine
end

