-- ==== Sys2Proof/Machine/RegReg.lean ====
section
/-! DEFINITION. The register-register instructions, opcode 0x33 (42_alu section 2, 43_compare section 2). -/

namespace Sys2Proof.Machine

/-- ADD: wraps modulo 2^32 (42_alu R123). -/
def execAdd (rd rs1 rs2 : RegIdx) (s : State) : Host.Outcome State Fault Refusal :=
  aluRegReg .add rd rs1 rs2 s

/-- SUB: `x[rs1] - x[rs2]`, wraps modulo 2^32 (42_alu R124). -/
def execSub (rd rs1 rs2 : RegIdx) (s : State) : Host.Outcome State Fault Refusal :=
  aluRegReg .sub rd rs1 rs2 s

/-- SLL: count `x[rs2][4:0]` (42_alu R128). -/
def execSll (rd rs1 rs2 : RegIdx) (s : State) : Host.Outcome State Fault Refusal :=
  aluRegReg .sll rd rs1 rs2 s

/-- SLT: signed, writes 1 or 0 (43_compare R143). -/
def execSlt (rd rs1 rs2 : RegIdx) (s : State) : Host.Outcome State Fault Refusal :=
  aluRegReg .slt rd rs1 rs2 s

/-- SLTU: unsigned, writes 1 or 0 (43_compare R144). -/
def execSltu (rd rs1 rs2 : RegIdx) (s : State) : Host.Outcome State Fault Refusal :=
  aluRegReg .sltu rd rs1 rs2 s

/-- XOR: bitwise (42_alu R127). -/
def execXor (rd rs1 rs2 : RegIdx) (s : State) : Host.Outcome State Fault Refusal :=
  aluRegReg .xor rd rs1 rs2 s

/-- SRL: zeros enter at bit 31 (42_alu R129). -/
def execSrl (rd rs1 rs2 : RegIdx) (s : State) : Host.Outcome State Fault Refusal :=
  aluRegReg .srl rd rs1 rs2 s

/-- SRA: copies of bit 31 enter (42_alu R130). -/
def execSra (rd rs1 rs2 : RegIdx) (s : State) : Host.Outcome State Fault Refusal :=
  aluRegReg .sra rd rs1 rs2 s

/-- OR: bitwise (42_alu R126). -/
def execOr (rd rs1 rs2 : RegIdx) (s : State) : Host.Outcome State Fault Refusal :=
  aluRegReg .or rd rs1 rs2 s

/-- AND: bitwise (42_alu R125). -/
def execAnd (rd rs1 rs2 : RegIdx) (s : State) : Host.Outcome State Fault Refusal :=
  aluRegReg .and rd rs1 rs2 s

end Sys2Proof.Machine
end

