-- ==== Sys2Proof/Machine/Stores.lean ====
section
/-! DEFINITION. The stores, opcode 0x23 (47_stores). -/

namespace Sys2Proof.Machine

/-- SB: the low 1 byte of `x[rs2]` to `x[rs1] + imm` (47_stores R181). -/
def execSb (rs1 rs2 : RegIdx) (imm : Word) (s : State) : Host.Outcome State Fault Refusal :=
  completeStore s (s.effAddr rs1 imm) (s.memWrite (s.effAddr rs1 imm) 1 (s.reg rs2))

/-- SH: the low 2 bytes of `x[rs2]` to `x[rs1] + imm` (47_stores R182). -/
def execSh (rs1 rs2 : RegIdx) (imm : Word) (s : State) : Host.Outcome State Fault Refusal :=
  completeStore s (s.effAddr rs1 imm) (s.memWrite (s.effAddr rs1 imm) 2 (s.reg rs2))

/-- SW: the low 4 bytes of `x[rs2]` to `x[rs1] + imm` (47_stores R183). -/
def execSw (rs1 rs2 : RegIdx) (imm : Word) (s : State) : Host.Outcome State Fault Refusal :=
  completeStore s (s.effAddr rs1 imm) (s.memWrite (s.effAddr rs1 imm) 4 (s.reg rs2))

end Sys2Proof.Machine
end

