-- ==== Sys2Proof/Machine/System.lean ====
section
/-! DEFINITION. ECALL and the sentinel operation (49_system_unknown). -/

namespace Sys2Proof.Machine

/-- ECALL: `running <- 0` when `x[10] = 10`, all 32 bits compared; the pc advances in both cases; no register is written
and there is no trap (49_system R195; every word of opcode 0x73, R196). -/
def execEcall (s : State) : Host.Outcome State Fault Refusal :=
  .next ((if s.reg Config.exitReg = Config.exitCode then s.halt else s).goto s.nextPc)

/-- UNKNOWN: no register is read, nothing changes but the pc, which advances by 4 (49_system R197, 90_conflicts C1). The
warning with the word is an output of the step, `stepOutcome` in Outcome.lean (60_exceptions R205; log entry 9). -/
def execUnknown (_w : Word) (s : State) : Host.Outcome State Fault Refusal :=
  .next (s.goto s.nextPc)

end Sys2Proof.Machine
end

