-- ==== Sys2Proof/Machine/UpperImm.lean ====
section
/-! DEFINITION. The upper-immediate instructions (48_upper_imm). -/

namespace Sys2Proof.Machine

/-- LUI: `x[rd] <- imm`, the immediate already in place (48_upper_imm R190). -/
def execLui (rd : RegIdx) (imm : Word) (s : State) : Host.Outcome State Fault Refusal :=
  .next (s.writeBack rd imm s.nextPc)

/-- AUIPC: `x[rd] <- pc + imm`, `pc` the address of the AUIPC itself (48_upper_imm R191). -/
def execAuipc (rd : RegIdx) (imm : Word) (s : State) : Host.Outcome State Fault Refusal :=
  .next (s.writeBack rd (s.pcPlus imm) s.nextPc)

end Sys2Proof.Machine
end

