-- ==== Sys2Proof/Machine/Step.lean ====
section
/-! DEFINITION. One step: fetch, decode, execute, commit (41_step_cycle R100 to R110), and the placing of an instruction
where the next step fetches it. -/

namespace Sys2Proof.Machine

/-- Exactly one fetch-decode-execute-writeback cycle (41_step_cycle R100, R110). With `running = 0` or `faulted = 1` no
step is taken (R101); a fetch outside the memory is a MemoryFault at the pc (R103); otherwise the decoded instruction is
executed (R104, R106). -/
def step (s : State) : Host.Outcome State Fault Refusal :=
  if s.enabled then
    match s.fetch with
    | some w => exec (decode w) s
    | none => raiseMemoryFault s s.pc
  else .fault (.noStep s)

/-- The state with an instruction word of `nbits` bits stored where the next step fetches it, at the pc, least
significant byte first (log entry 10). Where the pc lies outside the memory no word can be placed and nothing changes. -/
def State.withFetchWord (s : State) (nbits w : Nat) : State :=
  (s.memWrite s.pc 4 (BitVec.ofNat 32 (w % 2 ^ nbits))).getD s

end Sys2Proof.Machine
end

