-- ==== Sys2Proof/Machine/Outcome.lean ====
section
/-! DEFINITION. What a step reports and the state it leaves (41_step_cycle R107): outputs of the step, computed from the
state it starts in, remembered by nothing (10_state R27; log entry 9). -/

namespace Sys2Proof.Machine

/-- The four outcomes of a step (41_step_cycle R107). -/
inductive StepOutcome where
  /-- a real operation completed and it was not an exit ECALL -/
  | continues
  /-- `Warn(UnknownOperation, pc, w)`: the sentinel operation (60_exceptions R205) -/
  | warn (pc w : Word)
  /-- an ECALL with `x[10] = 10` (60_exceptions R220) -/
  | halt
  /-- `Fault(MemoryFault, pc, addr)` (60_exceptions R203) -/
  | fault (pc addr : Word)
deriving DecidableEq, Repr

/-- The last column of the table of 41_step_cycle R107: whether execution goes on. -/
def StepOutcome.goesOn : StepOutcome → Bool
  | .continues => true
  | .warn _ _ => true
  | .halt => false
  | .fault _ _ => false

/-- What the step taken in a state reports, at most one outcome (60_exceptions R208); `none` where no step is taken
(41_step_cycle R101). -/
def stepOutcome (s : State) : Option StepOutcome :=
  match step s with
  | .next t =>
    if t.running then
      match s.fetch.map decode with
      | some (.unknown w) => some (.warn s.pc w)
      | _ => some .continues
    else some .halt
  | .fault (.memoryFault pc addr _) => some (.fault pc addr)
  | .fault (.noStep _) => none
  | .refused _ => none

/-- The state an outcome leaves the machine in; for a fault it is the state the reason carries. -/
def outcomeState (s : State) (o : Host.Outcome State Fault Refusal) : State :=
  match o with
  | .next t => t
  | .fault (.memoryFault _ _ stopped) => stopped
  | .fault (.noStep held) => held
  | .refused _ => s

/-- The state after the step taken in a state (41_step_cycle R107, third column; R101 where none is taken). -/
def stateAfter (s : State) : State := outcomeState s (step s)

end Sys2Proof.Machine
end

