-- ==== Sys2Proof/Machine/Datapath.lean ====
section
/-! DEFINITION. The five blocks wired together (41_step_cycle R110, R111, R112; 10_state R14): decoder, register file
ports, ALU and comparator, load/store unit, pc unit, and the commit, driven by one line of control signals per
operation. It is a second description of the step, beside the meanings that `exec` dispatches to; the two are held
against each other by an obligation. Signal names are free (92_eei_decisions D1;
log entry 15). -/

namespace Sys2Proof.Machine

/-- What the write port of the register file receives. -/
inductive ResultSource where
  | none | aluResult | immediate | pcPlusImm | link | loadData
deriving DecidableEq, Repr

/-- What the pc unit does: the default, a pc-relative or a register-relative target, or a pc-relative target when the
comparator says so (41_step_cycle R111, R105). -/
inductive Take where
  | never | pcRelative | registerRelative | ifEq | ifNe | ifLt | ifGe | ifLtu | ifGeu
deriving DecidableEq, Repr

/-- The control signals of one operation. `memBytes` is 0 for an operation without a data access. -/
structure Control where
  result   : ResultSource := .none
  aluOp    : AluOp := .add
  useImm   : Bool := false
  take     : Take := .never
  memBytes : Nat := 0
  isStore  : Bool := false
  isSigned : Bool := false
  haltTest : Bool := false
  warn     : Bool := false
deriving DecidableEq, Repr

/-- The control signals of each operation: the dispatch on `op` alone (41_step_cycle R106, 10_state R14). -/
def controlOf : Operation → Control
  | .lui => { result := .immediate }
  | .auipc => { result := .pcPlusImm }
  | .jal => { result := .link, take := .pcRelative }
  | .jalr => { result := .link, take := .registerRelative }
  | .beq => { take := .ifEq }
  | .bne => { take := .ifNe }
  | .blt => { take := .ifLt }
  | .bge => { take := .ifGe }
  | .bltu => { take := .ifLtu }
  | .bgeu => { take := .ifGeu }
  | .lb => { result := .loadData, useImm := true, memBytes := 1, isSigned := true }
  | .lh => { result := .loadData, useImm := true, memBytes := 2, isSigned := true }
  | .lw => { result := .loadData, useImm := true, memBytes := 4 }
  | .lbu => { result := .loadData, useImm := true, memBytes := 1 }
  | .lhu => { result := .loadData, useImm := true, memBytes := 2 }
  | .sb => { useImm := true, memBytes := 1, isStore := true }
  | .sh => { useImm := true, memBytes := 2, isStore := true }
  | .sw => { useImm := true, memBytes := 4, isStore := true }
  | .addi => { result := .aluResult, useImm := true }
  | .slti => { result := .aluResult, useImm := true, aluOp := .slt }
  | .sltiu => { result := .aluResult, useImm := true, aluOp := .sltu }
  | .xori => { result := .aluResult, useImm := true, aluOp := .xor }
  | .ori => { result := .aluResult, useImm := true, aluOp := .or }
  | .andi => { result := .aluResult, useImm := true, aluOp := .and }
  | .slli => { result := .aluResult, useImm := true, aluOp := .sll }
  | .srli => { result := .aluResult, useImm := true, aluOp := .srl }
  | .srai => { result := .aluResult, useImm := true, aluOp := .sra }
  | .add => { result := .aluResult }
  | .sub => { result := .aluResult, aluOp := .sub }
  | .sll => { result := .aluResult, aluOp := .sll }
  | .slt => { result := .aluResult, aluOp := .slt }
  | .sltu => { result := .aluResult, aluOp := .sltu }
  | .xor => { result := .aluResult, aluOp := .xor }
  | .srl => { result := .aluResult, aluOp := .srl }
  | .sra => { result := .aluResult, aluOp := .sra }
  | .or => { result := .aluResult, aluOp := .or }
  | .and => { result := .aluResult, aluOp := .and }
  | .ecall => { haltTest := true }
  | .unknown => { warn := true }

/-- The address of read port A: `rs1`, but the constant 10 for ECALL (10_state R14). -/
def portA (d : DecodedInstruction) : RegIdx := if d.op = .ecall then Config.exitReg else d.rs1

/-- The data the load/store unit delivers for a load of `n` bytes, sign- or zero-extended (41_step_cycle R111). -/
def loadStoreUnitRead (m : List Host.Cell) (addr : Word) (n : Nat) (isSigned : Bool) : Word :=
  match n with
  | 1 => if isSigned then (Memory.read m addr.toNat).signExtend 32 else (Memory.read m addr.toNat).setWidth 32
  | 2 => if isSigned then (Memory.read16 m addr.toNat).signExtend 32 else (Memory.read16 m addr.toNat).setWidth 32
  | _ => Memory.read32 m addr.toNat

/-- Whether the pc unit leaves the default next pc for a pc-relative target (43_compare R141, 45_branches section 3). -/
def branchTaken (t : Take) (a b : Word) : Bool :=
  match t with
  | .never => false
  | .pcRelative => true
  | .registerRelative => false
  | .ifEq => cmpEq a b
  | .ifNe => !cmpEq a b
  | .ifLt => cmpLt a b
  | .ifGe => !cmpLt a b
  | .ifLtu => cmpLtu a b
  | .ifGeu => !cmpLtu a b

/-- The pc unit (41_step_cycle R111). -/
def pcUnit (t : Take) (pc imm a b : Word) : Word :=
  if t = .registerRelative then a + imm
  else if branchTaken t a b then pc + imm
  else pc + 4#32

/-- The output of the execute stage for the commit (41_step_cycle R110). -/
structure ExecuteOut where
  rdWe   : Bool
  rdVal  : Word
  stWe   : Bool
  stAddr : Word
  stN    : Nat
  stVal  : Word
  nextPc : Word
  halt   : Bool
  warn   : Bool
deriving DecidableEq, Repr

/-- The execute stage: operand selection, ALU, address and bounds check, load data, pc unit; `error` is the address of
a MemoryFault (41_step_cycle R110, R111, R102). -/
def executeStage (s : State) (c : Control) (imm a b : Word) : Except Word ExecuteOut :=
  let result := alu c.aluOp a (if c.useImm then imm else b)
  if c.memBytes ≠ 0 ∧ s.inBounds result c.memBytes = false then .error result
  else .ok {
    rdWe := c.result ≠ .none
    rdVal :=
      match c.result with
      | .none => 0x00000000#32
      | .aluResult => result
      | .immediate => imm
      | .pcPlusImm => s.pc + imm
      | .link => s.pc + 4#32
      | .loadData => loadStoreUnitRead s.mem result c.memBytes c.isSigned
    stWe := c.isStore
    stAddr := result
    stN := c.memBytes
    stVal := b
    nextPc := pcUnit c.take s.pc imm a b
    halt := c.haltTest && a == Config.exitCode
    warn := c.warn }

/-- The commit: register write dropped for `rd = 0`, memory write, `running`, pc, all together (41_step_cycle R108 to
R110). -/
def commit (s : State) (rd : RegIdx) (e : ExecuteOut) : State where
  regs    := if e.rdWe ∧ rd ≠ 0#5 then s.regs.set rd.toNat e.rdVal rd.isLt else s.regs
  pc      := e.nextPc
  mem     := if e.stWe then Memory.writeBytes s.mem e.stAddr.toNat (lowBytes e.stVal e.stN) else s.mem
  running := if e.halt then false else s.running
  faulted := s.faulted
  memSize := s.memSize

/-- The whole step through the blocks, with its outcome (41_step_cycle R110). -/
def datapathStep (s : State) : Host.Outcome State Fault Refusal × Option StepOutcome :=
  if s.enabled then
    match s.fetch with
    | none => (raiseMemoryFault s s.pc, some (.fault s.pc s.pc))
    | some w =>
      let d := decodeFields w
      match executeStage s (controlOf d.op) d.imm (s.reg (portA d)) (s.reg d.rs2) with
      | .error addr => (raiseMemoryFault s addr, some (.fault s.pc addr))
      | .ok e =>
        (.next (commit s d.rd e),
          some (if e.halt then .halt else if e.warn then .warn s.pc w else .continues))
  else (.fault (.noStep s), none)

end Sys2Proof.Machine
end

