-- ==== Sys2Proof/Machine/Boundary.lean ====
section
/-! DEFINITION. What the host may do to the core between steps, and what the core owes it (60_exceptions R224, R225,
R228, R232; 70_reset R240 to R248; 20_memory R46). -/

namespace Sys2Proof.Machine

/-- The host's reset of the core: registers, memory and pc as at power-on, `running` and `faulted` too; the size stays.
It is the only way out of the halted and the faulted condition (70_reset R240, R241). -/
def hostReset (s : State) : State := State.resetWith s.memSize

/-- Why an image load fails (60_exceptions R225, 70_reset R247). -/
inductive ImageLoadError where
  /-- there is no image file -/
  | notFound
  /-- the image is longer than the memory (92_eei_decisions D20) -/
  | tooLarge
deriving DecidableEq, Repr

/-- The copy of an image: the bytes go to address 0 on, the rest of memory keeps its values; an image longer than the
memory is refused and memory is unchanged (70_reset R246, R247). When the host may load is said by its moves alone,
`launch` and `HostState.load`: before the first step only (60_exceptions R232). -/
def loadImage (image : Option (List Byte)) (s : State) : Except ImageLoadError State :=
  match image with
  | none => .error .notFound
  | some bytes =>
    if bytes.length ≤ s.memSize then .ok { s with mem := Memory.writeBytes s.mem Config.imageBase bytes }
    else .error .tooLarge

/-- The launch state of a program: reset, then image load (70_reset R248). -/
def launch (memSize : Nat) (image : List Byte) : Except ImageLoadError State :=
  loadImage (some image) (State.resetWith memSize)

/-- Why an inspection command is rejected (60_exceptions R200, R225). -/
inductive CommandError where
  /-- a register index outside 0 to 31, an address outside the memory, or a malformed argument -/
  | invalidCommandInput
deriving DecidableEq, Repr

/-- Inspection of a register between steps (60_exceptions R225, R228). -/
def inspectReg (s : State) (index : Nat) : Except CommandError Word :=
  if index < 32 then .ok (s.reg (BitVec.ofNat 5 index)) else .error .invalidCommandInput

/-- Inspection of `n` bytes of memory between steps (20_memory R46, 60_exceptions R225); it never raises MemoryFault.
91_not_in_source N25: neither the byte order nor the alignment of what is printed is stated. DESIGN CHOICE: the bytes are
answered in address order, from the address as given, aligned or not, with no bit of it cleared and no rejection for its
alignment; an access of which any byte lies outside the memory is rejected (log entry 14). -/
def inspectMem (s : State) (addr n : Nat) : Except CommandError (List Byte) :=
  if addr + n ≤ s.memSize then .ok (Memory.readBytes s.mem addr n) else .error .invalidCommandInput

/-- The four bytes of a value, most significant first (20_memory R37, 60_exceptions R224). -/
def bigEndianBytes (v : Word) : List Byte := [byteOf v 3, byteOf v 2, byteOf v 1, byteOf v 0]

/-- The register dump: `x[0]` to `x[31]` in ascending order, each most significant byte first, 128 bytes (60_exceptions
R224). -/
def registerDump (s : State) : List Byte :=
  (List.range 32).flatMap fun i => bigEndianBytes (s.reg (BitVec.ofNat 5 i))

/-- The dump the host writes after a step: on the halt, and only then (60_exceptions R224, R113). -/
def dumpAfterStep (s : State) : Option (List Byte) :=
  if stepOutcome s = some .halt then some (registerDump (stateAfter s)) else none

end Sys2Proof.Machine
end

