-- ==== Sys2Proof/Machine/Debug.lean ====
section
/-! DEFINITION. The debug controller at the boundary (60_exceptions R226 to R231). It is outside the CORE (00_scope
section 3): it decides when a step happens, never what a step does. Its state is the host's, not part of `State`
(10_state R27). Texts, prompts and the command tokenizer are left out (91_not_in_source N19). -/

namespace Sys2Proof.Machine

/-- The controller's state (60_exceptions R226, R227). -/
structure DebugSession where
  /-- addresses that force a prompt before the instruction there executes: a set, listed without repeats -/
  breakpoints   : List Word
  /-- steps left before the next prompt; `none` is the unbounded budget. The source's sentinel is one of the 64-bit
  values, and which one is not given (60_exceptions R226, 91_not_in_source N14). DESIGN CHOICE: `none` stands apart from
  every count, so no count is the sentinel (log entry 12) -/
  budget        : Option Nat
  /-- whether every executed instruction's decoded fields are echoed -/
  verbose       : Bool
  /-- the controller state AwaitingInput: it blocks the cycle loop -/
  awaitingInput : Bool
deriving DecidableEq, Repr

/-- The host with its core. -/
structure HostState where
  core    : State
  session : DebugSession
  /-- whether a step was taken since power-on or the last reset: a run is on or has ended, and of the host's two moves
  that change the core the image load is no longer one (60_exceptions R232, 70_reset R246; log entry 10) -/
  started : Bool
deriving DecidableEq, Repr

/-- At start: AwaitingInput, or, in the non-interactive mode, Continuous (60_exceptions R227; log entries 12, 13). -/
def DebugSession.initial (interactive : Bool) : DebugSession where
  breakpoints   := []
  budget        := if interactive then some 0 else none
  verbose       := Config.verboseAtStart
  awaitingInput := interactive

/-- The host at start, before the image load (70_reset R242, R246). -/
def HostState.initial (memSize : Nat) (interactive : Bool) : HostState where
  core    := State.resetWith memSize
  session := DebugSession.initial interactive
  started := false

/-- The image load as a move of the host: there is none, `none`, once a step was taken and until the next reset
(60_exceptions R228, R232: the host never alters state mid-run except by reset; 70_reset R246: after reset and before
the first step). DESIGN CHOICE: before the first step it may be made more than once, where R246 says normally once
(log entry 10). -/
def HostState.load (h : HostState) (image : Option (List Byte)) : Option (Except ImageLoadError HostState) :=
  if h.started then none else some ((loadImage image h.core).map fun core => { h with core := core })

/-- What one turn of the cycle loop does. -/
inductive LoopEvent where
  /-- the controller awaits a command -/
  | blocked
  /-- a prompt is forced, with a breakpoint notice or because the budget ran out -/
  | prompted (breakpoint : Bool)
  /-- one step was taken: its outcome, the echo when verbose (R229), the dump when it halted (R224) -/
  | stepped (outcome : Option StepOutcome) (echo : Option DecodedInstruction) (dump : Option (List Byte))
  /-- the core takes no step (41_step_cycle R101): the loop has ended -/
  | ended
deriving DecidableEq, Repr

/-- Consume one of the budget (60_exceptions R227). -/
def consumeBudget : Option Nat → Option Nat
  | none => none
  | some n => some (n - 1)

/-- Let one step happen. What the step does depends on the core alone (60_exceptions R226). With `verbose` set the echo
is the decoder's output of every instruction that was fetched. DESIGN CHOICE: that includes an instruction whose data
access ends in MemoryFault; R229 says every executed instruction and not whether that one counts (log entry 12). -/
def HostState.cycle (h : HostState) : HostState × LoopEvent :=
  ({ core := stateAfter h.core,
     session := { h.session with budget := consumeBudget h.session.budget, awaitingInput := false },
     started := true },
   .stepped (stepOutcome h.core) (if h.session.verbose then h.core.fetch.map decodeFields else none)
     (dumpAfterStep h.core))

/-- One turn of the cycle loop, before each step (60_exceptions R227): a breakpoint at the pc forces the budget to 0 and
a prompt, whatever budget is left; a budget that is not used up lets the step happen; else the loop blocks for a command. -/
def HostState.turn (h : HostState) : HostState × LoopEvent :=
  if h.core.enabled = false then (h, .ended)
  else if h.session.awaitingInput then (h, .blocked)
  else if h.core.pc ∈ h.session.breakpoints then
    ({ h with session := { h.session with budget := some 0, awaitingInput := true } }, .prompted true)
  else if h.session.budget = some 0 then
    ({ h with session := { h.session with awaitingInput := true } }, .prompted false)
  else h.cycle

/-- The commands (60_exceptions R231). DESIGN CHOICE: `badd`, `brem`, `memb`, `memh` and `memw` always carry an address;
R231 writes it in brackets and names no default (log entry 12). -/
inductive Command where
  | run | step (n : Option Nat) | pc | reg (i : Option Nat)
  | memb (addr : Nat) | memh (addr : Nat) | memw (addr : Nat)
  | quiet | verbose | reset
  | badd (addr : Word) | brem (addr : Word) | blist | bclear
  | help | exit
deriving DecidableEq, Repr

/-- What a command answers; the texts are not stated (91_not_in_source N19). -/
inductive Reply where
  | done
  | resumed (event : LoopEvent)
  | value (v : Word)
  | values (vs : List Word)
  | bytes (bs : List Byte)
  | alreadySet
  | breakpoints (addrs : List Word)
  | commandSummary
  | rejected (e : CommandError)
  /-- `exit`: the process ends at once, without a final report and without a dump (60_exceptions R230) -/
  | terminated
deriving DecidableEq, Repr

/-- Set the budget and let the pending instruction execute, with no breakpoint test between the command and the step
(log entry 12). For a breakpoint already announced this is DEDUCED from 60_exceptions R227, "resume correctly". For one
not announced yet, set by `badd` at the current pc during the prompt or reached by `reset` to a kept breakpoint at 0, it
is a DESIGN CHOICE: R227 does not say whether the test is made again after the command. A core that takes no step
(41_step_cycle R101) answers that the loop has ended, and DESIGN CHOICE: the budget then stays as it was, since R231
does not say whether `run` or `step` sets it for a stopped core (log entry 12). -/
def HostState.resume (h : HostState) (budget : Option Nat) : HostState × Reply :=
  if h.core.enabled then
    let (h', e) := { h with session := { h.session with budget := budget } }.cycle
    (h', .resumed e)
  else (h, .resumed .ended)

/-- The largest step count a 64-bit budget holds (60_exceptions R226). DESIGN CHOICE: every count up to it is a finite
budget, although one of the 64-bit values is the source's unbounded sentinel (N14; log entry 12). -/
def maxBudget : Nat := 2 ^ 64 - 1

/-- Answer an inspection: the bytes or the rejection (60_exceptions R225). -/
def bytesReply : Except CommandError (List Byte) → Reply
  | .ok bs => .bytes bs
  | .error e => .rejected e

/-- The effect of a command (60_exceptions R228, R231). Only `reset` changes the core, beside the step that `run` and
`step` let happen; no command writes a register, the pc or one memory location. DESIGN CHOICE: `reset` keeps
`awaitingInput` as it was; given after the loop ended inside a run it leaves the controller not at a prompt, and the next
turn goes by the budget, a free value (R231 and 70_reset R240 do not say; log entry 12). DESIGN CHOICE: a command is
carried out whatever `awaitingInput` is, where R227 and R228 speak of commands at the prompt only; `run` or `step` given
elsewhere lets the pending instruction execute without the breakpoint test of its turn. DESIGN CHOICE: `blist` answers
the breakpoints in the order they were added, where R226 has a set without an order. DEDUCED: `badd` takes any address,
also one outside the memory, since R225 rejects addresses of inspection commands only (log entry 12). -/
def HostState.command (h : HostState) (c : Command) : HostState × Reply :=
  match c with
  | .run => h.resume none
  | .step n =>
    let k := n.getD 1
    if k = 0 then ({ h with session := { h.session with budget := some 0 } }, .done)
    else if k ≤ maxBudget then h.resume (some k)
    else (h, .rejected .invalidCommandInput)
  | .pc => (h, .value h.core.pc)
  | .reg none => (h, .values ((List.range 32).map fun i => h.core.reg (BitVec.ofNat 5 i)))
  | .reg (some i) =>
    match inspectReg h.core i with
    | .ok v => (h, .value v)
    | .error e => (h, .rejected e)
  | .memb a => (h, bytesReply (inspectMem h.core a 1))
  | .memh a => (h, bytesReply (inspectMem h.core a 2))
  | .memw a => (h, bytesReply (inspectMem h.core a 4))
  | .quiet => ({ h with session := { h.session with verbose := false } }, .done)
  | .verbose => ({ h with session := { h.session with verbose := true } }, .done)
  | .reset =>
    ({ core := hostReset h.core,
       session := { h.session with
         budget := Config.budgetAfterReset h.session.budget,
         verbose := Config.verboseAfterReset h.session.verbose },
       started := false }, .done)
  | .badd a =>
    if a ∈ h.session.breakpoints then (h, .alreadySet)
    else ({ h with session := { h.session with breakpoints := h.session.breakpoints ++ [a] } }, .done)
  | .brem a =>
    ({ h with session := { h.session with breakpoints := h.session.breakpoints.filter (· ≠ a) } }, .done)
  | .blist => (h, .breakpoints h.session.breakpoints)
  | .bclear => ({ h with session := { h.session with breakpoints := [] } }, .done)
  | .help => (h, .commandSummary)
  | .exit => (h, .terminated)

end Sys2Proof.Machine
end

