-- ==== Sys2Proof/Safety.lean ====
section
/-! DEFINITION. The terms claims are stated in: the invariant of the state, and what a step changes and what it leaves
unchanged. -/

namespace Sys2Proof.Machine

/-- What holds of every state the machine can be in: the size is a legal one (00_scope section 4), the memory keeps its
canonical form and lists only bytes of the memory (10_state R25), the slot of `x[0]` is zero (R12), a halted machine
halted with `x[10] = 10` and did not fault (60_exceptions R220, R203). -/
structure State.Inv (s : State) : Prop where
  size_min   : Config.minMemSize ≤ s.memSize
  size_max   : s.memSize ≤ Config.maxMemSize
  mem_wf     : Memory.wf s.mem = true
  mem_below  : Memory.below s.mem s.memSize = true
  x0_zero    : s.regs[0] = 0x00000000#32
  halt_code  : s.running = false → s.reg Config.exitReg = Config.exitCode
  not_both   : s.running = true ∨ s.faulted = false

/-- Nothing but registers and pc may differ: memory, `running`, `faulted` and the size are the same. -/
structure SameMemoryAndStatus (s t : State) : Prop where
  mem     : ∀ a, Memory.read t.mem a = Memory.read s.mem a
  running : t.running = s.running
  faulted : t.faulted = s.faulted
  memSize : t.memSize = s.memSize

/-- Every general register is the same. -/
def SameRegs (s t : State) : Prop := ∀ r, t.reg r = s.reg r

/-- Every general register but `rd` is the same, and `rd` holds `v`, or zero when `rd` is `x[0]`, whose write is
discarded (10_state R12, R13). -/
structure WritesOnly (s t : State) (rd : RegIdx) (v : Word) : Prop where
  written : t.reg rd = if rd = 0#5 then 0x00000000#32 else v
  others  : ∀ r, r ≠ rd → t.reg r = s.reg r

/-- The effect of an instruction with a destination register: `rd` receives `v`, the pc becomes `pc'`, nothing else
changes. -/
structure RegEffect (s t : State) (rd : RegIdx) (v pc' : Word) : Prop where
  regs  : WritesOnly s t rd v
  pc    : t.pc = pc'
  frame : SameMemoryAndStatus s t

/-- The effect of an instruction that writes no register and no memory: the pc becomes `pc'`, nothing else changes. -/
structure PcEffect (s t : State) (pc' : Word) : Prop where
  regs  : SameRegs s t
  pc    : t.pc = pc'
  frame : SameMemoryAndStatus s t

/-- The effect of a store of `n` bytes of `v` at `ea`: byte `k` of `v` stands at `ea + k`, every byte outside
`ea .. ea + n - 1` is the same, the pc becomes `pc'`, nothing else changes. -/
structure StoreEffect (s t : State) (ea : Word) (n : Nat) (v pc' : Word) : Prop where
  stored  : ∀ k, k < n → Memory.read t.mem (ea.toNat + k) = v.extractLsb' (8 * k) 8
  outside : ∀ a, a < ea.toNat ∨ ea.toNat + n ≤ a → Memory.read t.mem a = Memory.read s.mem a
  regs    : SameRegs s t
  pc      : t.pc = pc'
  running : t.running = s.running
  faulted : t.faulted = s.faulted
  memSize : t.memSize = s.memSize

/-- A MemoryFault at `addr`: the outcome names the pc and the address, and the state it leaves is the state before with
`faulted` set (60_exceptions R203). -/
def FaultsAt (s : State) (addr : Word) (o : Host.Outcome State Fault Refusal) : Prop :=
  o = .fault (.memoryFault s.pc addr { s with faulted := true })

/-- The destination register of an instruction (10_state R14, column "writes"). -/
def destination : Instr → Option RegIdx
  | .lui rd _ => some rd
  | .auipc rd _ => some rd
  | .jal rd _ => some rd
  | .jalr rd _ _ => some rd
  | .beq _ _ _ => none
  | .bne _ _ _ => none
  | .blt _ _ _ => none
  | .bge _ _ _ => none
  | .bltu _ _ _ => none
  | .bgeu _ _ _ => none
  | .lb rd _ _ => some rd
  | .lh rd _ _ => some rd
  | .lw rd _ _ => some rd
  | .lbu rd _ _ => some rd
  | .lhu rd _ _ => some rd
  | .sb _ _ _ => none
  | .sh _ _ _ => none
  | .sw _ _ _ => none
  | .addi rd _ _ => some rd
  | .slti rd _ _ => some rd
  | .sltiu rd _ _ => some rd
  | .xori rd _ _ => some rd
  | .ori rd _ _ => some rd
  | .andi rd _ _ => some rd
  | .slli rd _ _ => some rd
  | .srli rd _ _ => some rd
  | .srai rd _ _ => some rd
  | .add rd _ _ => some rd
  | .sub rd _ _ => some rd
  | .sll rd _ _ => some rd
  | .slt rd _ _ => some rd
  | .sltu rd _ _ => some rd
  | .xor rd _ _ => some rd
  | .srl rd _ _ => some rd
  | .sra rd _ _ => some rd
  | .or rd _ _ => some rd
  | .and rd _ _ => some rd
  | .ecall => none
  | .unknown _ => none

/-- How many bytes an instruction accesses in memory, `none` for the thirty-one operations that access no data
(20_memory R38). -/
def dataBytes : Instr → Option Nat
  | .lui _ _ => none
  | .auipc _ _ => none
  | .jal _ _ => none
  | .jalr _ _ _ => none
  | .beq _ _ _ => none
  | .bne _ _ _ => none
  | .blt _ _ _ => none
  | .bge _ _ _ => none
  | .bltu _ _ _ => none
  | .bgeu _ _ _ => none
  | .lb _ _ _ => some 1
  | .lh _ _ _ => some 2
  | .lw _ _ _ => some 4
  | .lbu _ _ _ => some 1
  | .lhu _ _ _ => some 2
  | .sb _ _ _ => some 1
  | .sh _ _ _ => some 2
  | .sw _ _ _ => some 4
  | .addi _ _ _ => none
  | .slti _ _ _ => none
  | .sltiu _ _ _ => none
  | .xori _ _ _ => none
  | .ori _ _ _ => none
  | .andi _ _ _ => none
  | .slli _ _ _ => none
  | .srli _ _ _ => none
  | .srai _ _ _ => none
  | .add _ _ _ => none
  | .sub _ _ _ => none
  | .sll _ _ _ => none
  | .slt _ _ _ => none
  | .sltu _ _ _ => none
  | .xor _ _ _ => none
  | .srl _ _ _ => none
  | .sra _ _ _ => none
  | .or _ _ _ => none
  | .and _ _ _ => none
  | .ecall => none
  | .unknown _ => none

/-- The three stores, the only instructions that write memory (10_state R25). -/
def isStore : Instr → Bool
  | .lui _ _ => false
  | .auipc _ _ => false
  | .jal _ _ => false
  | .jalr _ _ _ => false
  | .beq _ _ _ => false
  | .bne _ _ _ => false
  | .blt _ _ _ => false
  | .bge _ _ _ => false
  | .bltu _ _ _ => false
  | .bgeu _ _ _ => false
  | .lb _ _ _ => false
  | .lh _ _ _ => false
  | .lw _ _ _ => false
  | .lbu _ _ _ => false
  | .lhu _ _ _ => false
  | .sb _ _ _ => true
  | .sh _ _ _ => true
  | .sw _ _ _ => true
  | .addi _ _ _ => false
  | .slti _ _ _ => false
  | .sltiu _ _ _ => false
  | .xori _ _ _ => false
  | .ori _ _ _ => false
  | .andi _ _ _ => false
  | .slli _ _ _ => false
  | .srli _ _ _ => false
  | .srai _ _ _ => false
  | .add _ _ _ => false
  | .sub _ _ _ => false
  | .sll _ _ _ => false
  | .slt _ _ _ => false
  | .sltu _ _ _ => false
  | .xor _ _ _ => false
  | .srl _ _ _ => false
  | .sra _ _ _ => false
  | .or _ _ _ => false
  | .and _ _ _ => false
  | .ecall => false
  | .unknown _ => false

/-- A word of an opcode. -/
def HasOpcode (w : Word) (opcode : BitVec 7) : Prop := w.extractLsb' 0 7 = opcode

/-- A word of an opcode and a function code. -/
def HasCodes (w : Word) (opcode : BitVec 7) (funct3 : BitVec 3) : Prop :=
  w.extractLsb' 0 7 = opcode ∧ w.extractLsb' 12 3 = funct3

/-- A step is safe when it reports no MemoryFault. -/
def StepSafe (s : State) : Prop := ∀ pc addr, stepOutcome s ≠ some (.fault pc addr)

end Sys2Proof.Machine
end

