-- ==== Sys2Proof/Certificates/Slice0/Obligations.lean ====
section
/-! DEFINITION. The statements for the provers, each from a rule of spec/ or resting on sections of it. A statement that
rests on a choice says so. -/

open Sys2Proof Sys2Proof.Machine

/-- After reset of a machine of any legal size n: pc 0, x[2] holds n, every other register 0, every byte of memory 0,
running set, faulted clear; State.reset is the one of size 1,048,576. The zeros and running = 1 are the spec's own
decisions D18 and D19 (log entries 4, 5). It rests also on the spec's own decisions D9 (the range of MEM_SIZE), D11
(what a MemoryFault leaves): log entry 6. The model's own form in it: MEM_SIZE in State (log entry 1). (Derived:
70_reset_and_hazards R241, R242 (decisions D11, D18, D19; log entries 4, 5); 10_state R10, R16, R21, R22;
92_eei_decisions D9, D11 (log entry 6).) -/
def Obligations.ResetValues : Prop :=
  (∀ n, Config.minMemSize ≤ n → n ≤ Config.maxMemSize →
    (State.resetWith n).pc = 0x00000000#32 ∧ ((State.resetWith n).reg 2#5).toNat = n ∧
    (∀ r, r ≠ 2#5 → (State.resetWith n).reg r = 0x00000000#32) ∧
    (∀ a, Memory.read (State.resetWith n).mem a = 0x00#8) ∧
    (State.resetWith n).running = true ∧ (State.resetWith n).faulted = false ∧ (State.resetWith n).memSize = n) ∧
  State.reset = State.resetWith 1048576

/-- For every memory size from 4 to 2^31 the state after reset meets State.Inv, and so does State.reset. It rests on the
spec's own decisions D9 (the range of MEM_SIZE), D11 (what a MemoryFault leaves), D18 (the reset values), D19
(cleared memory is zero): log entries 4, 5, 6. The model's own form in it: MEM_SIZE in State (log entry 1), the
canonical memory (log entry 7), the slot of x[0] (log entry 11). (Derived: 70_reset_and_hazards R241 (decisions D11,
D18, D19); 00_scope section 4 (decision D9); 92_eei_decisions D9, D11, D18, D19 (log entries 4, 5, 6).) -/
def Obligations.ResetMeetsInvariant : Prop :=
  (∀ n, Config.minMemSize ≤ n → n ≤ Config.maxMemSize → (State.resetWith n).Inv) ∧ State.reset.Inv

/-- From every state that meets State.Inv (legal size, canonical memory inside the memory size, slot of x[0] zero, a
halted machine has x[10] = 10 and is not faulted), a step that answers a next state gives a state that meets it, and
so is the state a MemoryFault leaves and the state held where no step is taken. It rests on the spec's own decisions
D9 (the range of MEM_SIZE), D11 (what a MemoryFault leaves), D12 (the pc advances on the sentinel, conflict C1), D14
(running, and no step once stopped): log entry 6. The model's own form in it: MEM_SIZE in State (log entry 1), the
fault carries its state (log entry 2), no step is the fault noStep (log entry 3), the canonical memory (log entry
7), the slot of x[0] (log entry 11). (Derived: 10_state R12, R21, R22, R25, R27; 60_exceptions R203, R220;
41_step_cycle R101, R108; 92_eei_decisions D9, D11, D12, D14 (log entry 6).) -/
def Obligations.StepKeepsInvariant : Prop :=
  ∀ s, s.Inv → (∀ t, step s = .next t → t.Inv) ∧ (∀ pc addr t, step s = .fault (.memoryFault pc addr t) → t.Inv) ∧
    (∀ t, step s = .fault (.noStep t) → t.Inv)

/-- A turn of the cycle loop, any debugger command, and the host's image load where it has that move and it succeeds
take a core that meets State.Inv to one that meets it; so does the copy of an image as such, from any state. It
rests on the spec's own decisions D9 (the range of MEM_SIZE), D18 (the reset values), D19 (cleared memory is zero),
D20 (an oversized image is rejected), D24 (the controller outside the CORE): log entries 4, 5, 6. The model's own
form in it: MEM_SIZE in State (log entry 1), the canonical memory (log entry 7), the load from outside (log entry
10), the slot of x[0] (log entry 11), the controller's conventions (log entry 12). (Derived: 60_exceptions R226,
R228, R231, R232; 70_reset_and_hazards R240, R246, R247; 92_eei_decisions D9, D18, D19, D20, D24 (log entries 4, 5,
6).) -/
def Obligations.HostMovesKeepInvariant : Prop :=
  (∀ h : HostState, h.core.Inv → h.turn.1.core.Inv ∧ (∀ c, (h.command c).1.core.Inv) ∧
    ∀ image h', h.load image = some (.ok h') → h'.core.Inv) ∧
  (∀ s t image, s.Inv → loadImage image s = .ok t → t.Inv)

/-- For every well-formed instruction, of all 39 constructors and with every operand value an encoding admits, decode of
encode is the instruction. The encoder gives the canonical word of the row (log entry 8). It rests on the spec's own
decisions D4 (the standard funct3 values), D5 (funct7 ignored outside the three pairs), D6 (funct3 of JALR ignored)
and on general knowledge G1 (the funct3 values), G4 (which of 0x37 and 0x17 is LUI), G5 (the members of the
enumeration): log entry 6. The model's own form in it: ignored bits are no operands (log entry 8). (Derived:
30_encoding R51, R54 to R58, R63, R64, R68; 40_decoder R85; 92_eei_decisions D4, D5, D6 and
93_implementation_defined G1, G4, G5 (log entry 6).) -/
def Obligations.DecodeEncodeRoundTrip : Prop :=
  ∀ i : Instr, i.wellFormed = true → decode (encode i) = i

/-- For each of the 2^32 words the decoded instruction is well-formed: immediates lie in the range of their format, SRLI
and SRAI carry the funct7 that selects them, and the sentinel holds only words no row names. It rests on the spec's
own decisions D4 (the standard funct3 values), D5 (funct7 ignored outside the three pairs), D6 (funct3 of JALR
ignored) and on general knowledge G1 (the funct3 values): log entry 6. (Derived: 40_decoder R82, R84; 30_encoding
R60, R69; 92_eei_decisions D4, D5, D6 and 93_implementation_defined G1 (log entry 6).) -/
def Obligations.DecodeIsWellFormed : Prop :=
  ∀ w : Word, (decode w).wellFormed = true

/-- For every word the first row of the table with w & mask = match names the operation the decoder resolves, and the
decoded instruction performs that operation. It rests on the spec's own decisions D4 (the standard funct3 values),
D5 (funct7 ignored outside the three pairs), D6 (funct3 of JALR ignored) and on general knowledge G1 (the funct3
values), G4 (which of 0x37 and 0x17 is LUI), G5 (the members of the enumeration): log entry 6. (Derived: 30_encoding
R68 (derived from R61, R63 to R67); 92_eei_decisions D4, D5, D6 and 93_implementation_defined G1, G4, G5 (log entry
6).) -/
def Obligations.DecoderAgreesWithOpcodeTable : Prop :=
  ∀ w : Word, opcodeTableLookup w = some (decodeFields w).op ∧ (decode w).op = (decodeFields w).op

/-- The fields funct7, rs2, rs1, funct3, rd, opcode of every word, put side by side, are the word, and raw is the word.
(Derived: 30_encoding R52.) -/
def Obligations.FieldsCoverTheWord : Prop :=
  ∀ w : Word, (decodeFields w).raw = w ∧
    ((decodeFields w).funct7 ++ (decodeFields w).rs2 ++ (decodeFields w).rs1 ++ (decodeFields w).funct3 ++
      (decodeFields w).rd ++ (decodeFields w).opcode : BitVec 32) = w

/-- Opcode 0x6F gives the J immediate, 0x37 and 0x17 the U immediate, 0x03, 0x67 and 0x13 the I immediate, 0x23 the S
immediate, 0x63 the B immediate, whatever funct3, funct7 and the operation; every other opcode, 0x33 and 0x73 among
them, gives 0. (Stated: R53; R59.) -/
def Obligations.ImmediateFormatByOpcodeAlone : Prop :=
  ∀ w : Word, (decodeFields w).imm =
    if w.extractLsb' 0 7 = 0x6F#7 then immJ w
    else if w.extractLsb' 0 7 = 0x37#7 ∨ w.extractLsb' 0 7 = 0x17#7 then immU w
    else if w.extractLsb' 0 7 = 0x03#7 ∨ w.extractLsb' 0 7 = 0x67#7 ∨ w.extractLsb' 0 7 = 0x13#7 then immI w
    else if w.extractLsb' 0 7 = 0x23#7 then immS w
    else if w.extractLsb' 0 7 = 0x63#7 then immB w
    else 0x00000000#32

/-- I: imm[11:0] = w[31:20], imm[31:12] the sign w[31]. S: imm[4:0] = w[11:7], imm[11:5] = w[31:25], imm[31:12] the
sign. Both range over -2048 .. 2047. (Stated: R54; R55.) -/
def Obligations.ImmediatesIandSBitByBit : Prop :=
  ∀ w : Word,
    ((∀ k, k < 12 → (immI w).getLsbD k = w.getLsbD (20 + k)) ∧
      (∀ k, 12 ≤ k → k < 32 → (immI w).getLsbD k = w.getLsbD 31) ∧
      -2048 ≤ (immI w).toInt ∧ (immI w).toInt ≤ 2047) ∧
    ((∀ k, k < 5 → (immS w).getLsbD k = w.getLsbD (7 + k)) ∧
      (∀ k, 5 ≤ k → k < 12 → (immS w).getLsbD k = w.getLsbD (20 + k)) ∧
      (∀ k, 12 ≤ k → k < 32 → (immS w).getLsbD k = w.getLsbD 31) ∧
      -2048 ≤ (immS w).toInt ∧ (immS w).toInt ≤ 2047)

/-- B: imm[0] = 0, imm[4:1] = w[11:8], imm[10:5] = w[30:25], imm[11] = w[7], imm[31:12] the sign; range -4096 .. 4094.
J: imm[0] = 0, imm[10:1] = w[30:21], imm[11] = w[20], imm[19:12] = w[19:12], imm[31:20] the sign; range -1048576 ..
1048574. (Stated: R56; R58.) -/
def Obligations.ImmediatesBandJBitByBit : Prop :=
  ∀ w : Word,
    ((immB w).getLsbD 0 = false ∧ (∀ k, 1 ≤ k → k < 5 → (immB w).getLsbD k = w.getLsbD (7 + k)) ∧
      (∀ k, 5 ≤ k → k < 11 → (immB w).getLsbD k = w.getLsbD (20 + k)) ∧ (immB w).getLsbD 11 = w.getLsbD 7 ∧
      (∀ k, 12 ≤ k → k < 32 → (immB w).getLsbD k = w.getLsbD 31) ∧
      -4096 ≤ (immB w).toInt ∧ (immB w).toInt ≤ 4094) ∧
    ((immJ w).getLsbD 0 = false ∧ (∀ k, 1 ≤ k → k < 11 → (immJ w).getLsbD k = w.getLsbD (20 + k)) ∧
      (immJ w).getLsbD 11 = w.getLsbD 20 ∧ (∀ k, 12 ≤ k → k < 20 → (immJ w).getLsbD k = w.getLsbD k) ∧
      (∀ k, 20 ≤ k → k < 32 → (immJ w).getLsbD k = w.getLsbD 31) ∧
      -1048576 ≤ (immJ w).toInt ∧ (immJ w).toInt ≤ 1048574)

/-- imm[31:12] = w[31:12] and imm[11:0] = 0. (Stated: R57.) -/
def Obligations.ImmediateUBitByBit : Prop :=
  ∀ w : Word, (∀ k, k < 12 → (immU w).getLsbD k = false) ∧
    (∀ k, 12 ≤ k → k < 32 → (immU w).getLsbD k = w.getLsbD k)

/-- A word decodes to the sentinel exactly when its opcode is none of the ten, or it is 0x63 with funct3 010 or 011, or
0x03 with 011, 110 or 111, or 0x23 with 011 to 111; the sentinel carries the word, never another one. It rests on
the spec's own decisions D4 (the standard funct3 values), D5 (funct7 ignored outside the three pairs), D6 (funct3 of
JALR ignored) and on general knowledge G1 (the funct3 values): log entry 6. (Derived: 30_encoding R67 (derived from
R63, R65, R66), R69; 40_decoder R86; 92_eei_decisions D4, D5, D6 and 93_implementation_defined G1 (log entry 6).) -/
def Obligations.UnknownWordsExactly : Prop :=
  ∀ w : Word, (∀ v, decode w = .unknown v → v = w) ∧ (decode w = .unknown w ↔
    (w.extractLsb' 0 7 ≠ 0x37#7 ∧ w.extractLsb' 0 7 ≠ 0x17#7 ∧ w.extractLsb' 0 7 ≠ 0x6F#7 ∧ w.extractLsb' 0 7 ≠ 0x67#7 ∧
      w.extractLsb' 0 7 ≠ 0x63#7 ∧ w.extractLsb' 0 7 ≠ 0x03#7 ∧ w.extractLsb' 0 7 ≠ 0x23#7 ∧ w.extractLsb' 0 7 ≠ 0x13#7 ∧
      w.extractLsb' 0 7 ≠ 0x33#7 ∧ w.extractLsb' 0 7 ≠ 0x73#7) ∨
    HasCodes w 0x63#7 0b010#3 ∨ HasCodes w 0x63#7 0b011#3 ∨
    HasCodes w 0x03#7 0b011#3 ∨ HasCodes w 0x03#7 0b110#3 ∨ HasCodes w 0x03#7 0b111#3 ∨
    HasCodes w 0x23#7 0b011#3 ∨ HasCodes w 0x23#7 0b100#3 ∨ HasCodes w 0x23#7 0b101#3 ∨ HasCodes w 0x23#7 0b110#3 ∨
    HasCodes w 0x23#7 0b111#3)

/-- For every word of the three pairs: funct7 = 0 decodes to ADD, SRL, SRLI, any other funct7 to SUB, SRA, SRAI, with
rd, rs1 and rs2 or the I immediate from their fields. The funct3 values of the pairs are the standard ones, the
spec's own decision D4, from general knowledge G1 (log entry 6). (Derived: 30_encoding R51, R64; 30_encoding R63
(decision D4; G1; log entry 6); 90_conflicts C2.) -/
def Obligations.AlternateFormByNonzeroFunct7 : Prop :=
  ∀ w : Word,
    (HasCodes w 0x33#7 0b000#3 → decode w =
      if w.extractLsb' 25 7 = 0#7 then .add (w.extractLsb' 7 5) (w.extractLsb' 15 5) (w.extractLsb' 20 5)
      else .sub (w.extractLsb' 7 5) (w.extractLsb' 15 5) (w.extractLsb' 20 5)) ∧
    (HasCodes w 0x33#7 0b101#3 → decode w =
      if w.extractLsb' 25 7 = 0#7 then .srl (w.extractLsb' 7 5) (w.extractLsb' 15 5) (w.extractLsb' 20 5)
      else .sra (w.extractLsb' 7 5) (w.extractLsb' 15 5) (w.extractLsb' 20 5)) ∧
    (HasCodes w 0x13#7 0b101#3 → decode w =
      if w.extractLsb' 25 7 = 0#7 then .srli (w.extractLsb' 7 5) (w.extractLsb' 15 5) (immI w)
      else .srai (w.extractLsb' 7 5) (w.extractLsb' 15 5) (immI w))

/-- In family 0x33 with the six funct3 values outside the pairs, in family 0x13 with the seven outside its pair and in
family 0x63 with the six of the branches, every word decodes to the instruction of its funct3, whatever funct7, with
operands from the R, I and B layouts. It rests on the spec's own decisions D4 (the standard funct3 values), D5
(funct7 ignored outside the three pairs) and on general knowledge G1 (the funct3 values): log entry 6. The model's
own form in it: ignored bits are no operands (log entry 8). (Derived: 30_encoding R51, R63, R65 (decisions D4, D5;
G1); 92_eei_decisions D4, D5 and 93_implementation_defined G1 (log entry 6).) -/
def Obligations.OperandsOfRegisterAndBranchWords : Prop :=
  ∀ w : Word,
    (HasCodes w 0x33#7 0b001#3 → decode w = .sll (w.extractLsb' 7 5) (w.extractLsb' 15 5) (w.extractLsb' 20 5)) ∧
    (HasCodes w 0x33#7 0b010#3 → decode w = .slt (w.extractLsb' 7 5) (w.extractLsb' 15 5) (w.extractLsb' 20 5)) ∧
    (HasCodes w 0x33#7 0b011#3 → decode w = .sltu (w.extractLsb' 7 5) (w.extractLsb' 15 5) (w.extractLsb' 20 5)) ∧
    (HasCodes w 0x33#7 0b100#3 → decode w = .xor (w.extractLsb' 7 5) (w.extractLsb' 15 5) (w.extractLsb' 20 5)) ∧
    (HasCodes w 0x33#7 0b110#3 → decode w = .or (w.extractLsb' 7 5) (w.extractLsb' 15 5) (w.extractLsb' 20 5)) ∧
    (HasCodes w 0x33#7 0b111#3 → decode w = .and (w.extractLsb' 7 5) (w.extractLsb' 15 5) (w.extractLsb' 20 5)) ∧
    (HasCodes w 0x13#7 0b000#3 → decode w = .addi (w.extractLsb' 7 5) (w.extractLsb' 15 5) (immI w)) ∧
    (HasCodes w 0x13#7 0b001#3 → decode w = .slli (w.extractLsb' 7 5) (w.extractLsb' 15 5) (immI w)) ∧
    (HasCodes w 0x13#7 0b010#3 → decode w = .slti (w.extractLsb' 7 5) (w.extractLsb' 15 5) (immI w)) ∧
    (HasCodes w 0x13#7 0b011#3 → decode w = .sltiu (w.extractLsb' 7 5) (w.extractLsb' 15 5) (immI w)) ∧
    (HasCodes w 0x13#7 0b100#3 → decode w = .xori (w.extractLsb' 7 5) (w.extractLsb' 15 5) (immI w)) ∧
    (HasCodes w 0x13#7 0b110#3 → decode w = .ori (w.extractLsb' 7 5) (w.extractLsb' 15 5) (immI w)) ∧
    (HasCodes w 0x13#7 0b111#3 → decode w = .andi (w.extractLsb' 7 5) (w.extractLsb' 15 5) (immI w)) ∧
    (HasCodes w 0x63#7 0b000#3 → decode w = .beq (w.extractLsb' 15 5) (w.extractLsb' 20 5) (immB w)) ∧
    (HasCodes w 0x63#7 0b001#3 → decode w = .bne (w.extractLsb' 15 5) (w.extractLsb' 20 5) (immB w)) ∧
    (HasCodes w 0x63#7 0b100#3 → decode w = .blt (w.extractLsb' 15 5) (w.extractLsb' 20 5) (immB w)) ∧
    (HasCodes w 0x63#7 0b101#3 → decode w = .bge (w.extractLsb' 15 5) (w.extractLsb' 20 5) (immB w)) ∧
    (HasCodes w 0x63#7 0b110#3 → decode w = .bltu (w.extractLsb' 15 5) (w.extractLsb' 20 5) (immB w)) ∧
    (HasCodes w 0x63#7 0b111#3 → decode w = .bgeu (w.extractLsb' 15 5) (w.extractLsb' 20 5) (immB w))

/-- One word of every family: LUI 0x800000B7, AUIPC 0x12345197, JAL 0xFFDFF0EF, JALR 0x003280E7, BEQ 0xC6318C63, LH
0x00109183, SW 0xFE112E23, SRAI 0x4035D513, SUB 0x40B50533, ECALL 0x00100073, and FENCE 0x0000000F, the sentinel.
The words of AUIPC, JALR, LH and SW are the examples of R191, R152, R172 and R183, the others stand in the decoder's
worked decodes. It rests on the spec's own decision D4 (the standard funct3 values) and on general knowledge G1 (the
funct3 values), G4 (which of 0x37 and 0x17 is LUI): log entry 6. (Derived: 40_decoder R85 and section 4;
95_test_vectors 2.1; 44_jumps R152; 46_loads R172; 47_stores R183; 48_upper_imm R190, R191; 92_eei_decisions D4 and
93_implementation_defined G1, G4 (log entry 6).) -/
def Obligations.SampleWordsDecode : Prop :=
  decode 0x800000B7#32 = .lui 1#5 0x80000000#32 ∧ decode 0x12345197#32 = .auipc 3#5 0x12345000#32 ∧
  decode 0xFFDFF0EF#32 = .jal 1#5 0xFFFFFFFC#32 ∧ decode 0x003280E7#32 = .jalr 1#5 5#5 3#32 ∧
  decode 0xC6318C63#32 = .beq 3#5 3#5 0xFFFFF478#32 ∧ decode 0x00109183#32 = .lh 3#5 1#5 1#32 ∧
  decode 0xFE112E23#32 = .sw 2#5 1#5 0xFFFFFFFC#32 ∧ decode 0x4035D513#32 = .srai 10#5 11#5 0x00000403#32 ∧
  decode 0x40B50533#32 = .sub 10#5 10#5 11#5 ∧ decode 0x00100073#32 = .ecall ∧
  decode 0x0000000F#32 = .unknown 0x0000000F#32

/-- With running set, faulted clear and the four bytes at the pc inside the memory: if they decode to an instruction,
the step is exec of that instruction in that state. Nothing is added around exec: it commits the next pc itself. It
rests on the spec's own decision D8 (addresses and pc modulo 2^32, the bounds check unbounded): log entry 6.
(Derived: 41_step_cycle R102 to R106, R110; 20_memory R32; 92_eei_decisions D8 (log entry 6).) -/
def Obligations.StepRunsDecodedInstruction : Prop :=
  ∀ s i, s.running = true → s.faulted = false → s.pc.toNat + 4 ≤ s.memSize →
    decodeBytes (Memory.readBytes s.mem s.pc.toNat 4) = .ok (i, []) → step s = exec i s

/-- With the enable on: inside the memory the word of the four bytes at the pc, lowest address least significant, is
decoded and executed; outside, the step's outcome is Fault(MemoryFault, pc, pc) and the state it leaves differs by
faulted alone. That a fault changes nothing but faulted and names the pc is the spec's own decision D11, that the
bounds check is unbounded its decision D8 (log entry 6); that it is the model's fault with the state inside is the
model's choice (log entry 2). (Derived: 41_step_cycle R103; 20_memory R32, R33, R35 (decision D8); 60_exceptions
R201, R203 (decision D11; log entries 2, 6).) -/
def Obligations.FetchOutsideMemoryFaults : Prop :=
  ∀ s, s.running = true → s.faulted = false →
    (s.pc.toNat + 4 ≤ s.memSize → step s = exec (decode (Memory.read s.mem (s.pc.toNat + 3) ++
      Memory.read s.mem (s.pc.toNat + 2) ++ Memory.read s.mem (s.pc.toNat + 1) ++ Memory.read s.mem s.pc.toNat)) s) ∧
    (s.memSize < s.pc.toNat + 4 → FaultsAt s s.pc (step s))

/-- With running clear or faulted set, step stops with noStep and the very same state, reports no outcome, and the state
after is the state before. That no step is a stop of the model is the model's choice (log entry 3). It rests on the
spec's own decisions D11 (what a MemoryFault leaves), D14 (running, and no step once stopped): log entry 6.
(Derived: 41_step_cycle R101 (decisions D11, D14; log entry 3); 92_eei_decisions D11, D14 (log entry 6).) -/
def Obligations.StoppedCoreTakesNoStep : Prop :=
  ∀ s, s.running = false ∨ s.faulted = true →
    step s = .fault (.noStep s) ∧ stepOutcome s = none ∧ stateAfter s = s

/-- For a state with canonical memory, the enable on and the pc inside the memory: after placing a word the step is exec
of its decoding in the state with the word placed, which differs from the state before in the four bytes at the pc
alone. It rests on the spec's own decision D8 (addresses and pc modulo 2^32, the bounds check unbounded): log entry
6. The model's own form in it: the canonical memory (log entry 7). (Derived: 20_memory R33, R34, R44;
70_reset_and_hazards R246 (log entry 10); 92_eei_decisions D8 (log entry 6).) -/
def Obligations.PlacedWordIsRunNext : Prop :=
  ∀ (s : State) (w : Nat), Memory.wf s.mem = true → s.running = true → s.faulted = false → s.pc.toNat + 4 ≤ s.memSize →
    step (s.withFetchWord 32 w) = exec (decode (BitVec.ofNat 32 w)) (s.withFetchWord 32 w) ∧
    StoreEffect s (s.withFetchWord 32 w) s.pc 4 (BitVec.ofNat 32 w) s.pc

/-- Fault names the pc and leaves the state before with faulted set. Warn names the pc and the fetched word, and only
the pc changes, to pc + 4. Halt comes of x[10] = 10 and leaves running clear and pc + 4. Continue leaves running and
faulted as they were. A fault or a warning of another shape does not occur. It rests on the spec's own decisions D8
(addresses and pc modulo 2^32, the bounds check unbounded), D11 (what a MemoryFault leaves), D12 (the pc advances on
the sentinel, conflict C1), D14 (running, and no step once stopped), D15 (the names of the outcomes): log entry 6.
The model's own form in it: the fault carries its state (log entry 2), outcomes as a function of the state before
(log entry 9). (Derived: 41_step_cycle R107 (decision D15), R109; 60_exceptions R203, R205, R208, R220;
92_eei_decisions D8, D11, D12, D14, D15 (log entry 6).) -/
def Obligations.OutcomeTable : Prop :=
  ∀ s,
    (∀ pc addr, stepOutcome s = some (.fault pc addr) → pc = s.pc ∧ stateAfter s = { s with faulted := true }) ∧
    (∀ pc w, stepOutcome s = some (.warn pc w) →
      pc = s.pc ∧ s.fetch = some w ∧ stateAfter s = { s with pc := s.pc + 4#32 }) ∧
    (stepOutcome s = some .halt →
      s.reg 10#5 = 0x0000000A#32 ∧ stateAfter s = { s with running := false, pc := s.pc + 4#32 }) ∧
    (stepOutcome s = some .continues →
      step s = .next (stateAfter s) ∧ (stateAfter s).running = true ∧ (stateAfter s).faulted = false) ∧
    (stepOutcome s = none ↔ s.running = false ∨ s.faulted = true)

/-- In every state the step through decoder, register ports, ALU, load/store unit, pc unit and commit, driven by control
signals, gives the same outcome, the same next state or fault, and the same report as the dispatch over instruction
meanings. The datapath is the model's own second description of the step, and the block split and the signals are
the spec's free choice, so that it exists at all is a DESIGN CHOICE (log entry 15). It rests on the spec's own
decision D13 (how ECALL reads x[10]): log entry 6. The model's own form in it: the fault carries its state (log
entry 2), no step is the fault noStep (log entry 3), outcomes as a function of the state before (log entry 9).
(Derived: 41_step_cycle R106 to R112 (decisions D1, D2; log entry 15); 10_state R14; 40_decoder R80, R85;
92_eei_decisions D13 (log entry 6).) -/
def Obligations.DatapathIsTheStep : Prop :=
  ∀ s, datapathStep s = (step s, stepOutcome s)

/-- Inside the memory MemRead(addr, n) answers the value whose byte k is mem[u(addr) + k], for n = 1, 2, 4; outside it
answers no value (the MemoryFault). The bounds check in unbounded integers is the spec's own decision D8 (log entry
6). (Derived: 20_memory R33, R35 (decision D8; log entry 6).) -/
def Obligations.MemReadIsLittleEndianAndBounded : Prop :=
  ∀ (s : State) (addr : Word),
    (addr.toNat + 1 ≤ s.memSize → s.memRead8 addr = some (Memory.read s.mem addr.toNat)) ∧
    (s.memSize < addr.toNat + 1 → s.memRead8 addr = none) ∧
    (addr.toNat + 2 ≤ s.memSize → ∃ v, s.memRead16 addr = some v ∧
      ∀ k, k < 2 → v.extractLsb' (8 * k) 8 = Memory.read s.mem (addr.toNat + k)) ∧
    (s.memSize < addr.toNat + 2 → s.memRead16 addr = none) ∧
    (addr.toNat + 4 ≤ s.memSize → ∃ v, s.memRead32 addr = some v ∧
      ∀ k, k < 4 → v.extractLsb' (8 * k) 8 = Memory.read s.mem (addr.toNat + k)) ∧
    (s.memSize < addr.toNat + 4 → s.memRead32 addr = none)

/-- On a canonical memory, inside the memory every one of the n low bytes of the value (n at most 4) is written at its
address and every other byte keeps its value, nothing else of the state changes; outside nothing is written. It
rests on the spec's own decisions D8 (addresses and pc modulo 2^32, the bounds check unbounded), D11 (what a
MemoryFault leaves): log entry 6. The model's own form in it: the canonical memory (log entry 7). (Derived:
20_memory R34, R35 (decisions D8, D11); 92_eei_decisions D8, D11 (log entry 6).) -/
def Obligations.MemWriteIsAllOrNothing : Prop :=
  ∀ (s : State) (addr v : Word) (n : Nat), Memory.wf s.mem = true → n ≤ 4 →
    (addr.toNat + n ≤ s.memSize → ∃ t, s.memWrite addr n v = some t ∧ StoreEffect s t addr n v s.pc) ∧
    (s.memSize < addr.toNat + n → s.memWrite addr n v = none)

/-- In a machine of a legal size no access of one byte or more at an address with bit 31 set is inside the memory. It
rests on the spec's own decisions D8 (addresses and pc modulo 2^32, the bounds check unbounded), D9 (the range of
MEM_SIZE): log entry 6. The model's own form in it: MEM_SIZE in State (log entry 1). (Derived: 20_memory R35
(decisions D8, D9); 92_eei_decisions D8, D9 (log entry 6).) -/
def Obligations.HighAddressesOutsideEveryMemory : Prop :=
  ∀ (s : State) (addr : Word) (n : Nat), s.memSize ≤ Config.maxMemSize → addr.getLsbD 31 = true → 0 < n →
    s.inBounds addr n = false

/-- The canonical form is unique: if two memories in canonical form read the same at every address, they are equal. The
form is the model's own, a DESIGN CHOICE (log entry 7). (Derived: 20_memory R30; 10_state R25.) -/
def Obligations.EqualMemoriesAreEqualLists : Prop :=
  ∀ m m' : List Host.Cell, Memory.wf m = true → Memory.wf m' = true →
    (∀ a, Memory.read m a = Memory.read m' a) → m = m'

/-- add and sub modulo 2^32, sub also as a + ~b + 1; and, or, xor bit by bit; sll multiplies by 2^n modulo 2^32, srl is
the floor of u(a) / 2^n, sra encodes the floor of s(a) / 2^n, with n the value of b[4:0]. (Stated: R120.) -/
def Obligations.AluFunctions : Prop :=
  ∀ a b : Word,
    (alu .add a b).toNat = (a.toNat + b.toNat) % 2 ^ 32 ∧
    ((alu .sub a b).toNat : Int) = ((a.toNat : Int) - b.toNat) % 2 ^ 32 ∧ alu .sub a b = a + ~~~b + 1#32 ∧
    (∀ k, k < 32 → (alu .and a b).getLsbD k = (a.getLsbD k && b.getLsbD k)) ∧
    (∀ k, k < 32 → (alu .or a b).getLsbD k = (a.getLsbD k || b.getLsbD k)) ∧
    (∀ k, k < 32 → (alu .xor a b).getLsbD k = (a.getLsbD k ^^ b.getLsbD k)) ∧
    (alu .sll a b).toNat = a.toNat * 2 ^ (b.extractLsb' 0 5).toNat % 2 ^ 32 ∧
    (alu .srl a b).toNat = a.toNat / 2 ^ (b.extractLsb' 0 5).toNat ∧
    (alu .sra a b).toInt = a.toInt / 2 ^ (b.extractLsb' 0 5).toNat

/-- In every state and for all register operands, rd = rs1, rd = rs2 and rd = 0 included, each answers a next state: rd
holds u(rs1) + u(rs2), their difference, or their bitwise combination, modulo 2^32 (nothing is written for rd = 0),
pc + 4, every other register, every byte of memory, running and faulted unchanged. It rests on the spec's own
decisions D8 (addresses and pc modulo 2^32, the bounds check unbounded), D25 (how x[0] is kept zero) and on general
knowledge G2 (which function each mnemonic performs): log entry 6. (Derived: 42_alu R120, R121, R123 to R127 (G2);
10_state R13, R15; 41_step_cycle R105, R108; 92_eei_decisions D8, D25 and 93_implementation_defined G2 (log entry
6).) -/
def Obligations.AddSubAndLogicRegReg : Prop :=
  ∀ (s : State) (rd rs1 rs2 : RegIdx),
    (∃ t, exec (.add rd rs1 rs2) s = .next t ∧ RegEffect s t rd (BitVec.ofNat 32 ((s.reg rs1).toNat + (s.reg rs2).toNat)) (s.pc + 4#32)) ∧
    (∃ t, exec (.sub rd rs1 rs2) s = .next t ∧ RegEffect s t rd (BitVec.ofInt 32 ((s.reg rs1).toInt - (s.reg rs2).toInt)) (s.pc + 4#32)) ∧
    (∃ t, exec (.and rd rs1 rs2) s = .next t ∧ RegEffect s t rd (s.reg rs1 &&& s.reg rs2) (s.pc + 4#32)) ∧
    (∃ t, exec (.or rd rs1 rs2) s = .next t ∧ RegEffect s t rd (s.reg rs1 ||| s.reg rs2) (s.pc + 4#32)) ∧
    (∃ t, exec (.xor rd rs1 rs2) s = .next t ∧ RegEffect s t rd (s.reg rs1 ^^^ s.reg rs2) (s.pc + 4#32))

/-- In every state each answers a next state: rd holds u(rs1) * 2^n modulo 2^32, the floor of u(rs1) / 2^n, or the
encoding of the floor of s(rs1) / 2^n, with n = x[rs2] modulo 32; pc + 4; nothing else changes. It rests on the
spec's own decisions D7 (the count of a register shift), D8 (addresses and pc modulo 2^32, the bounds check
unbounded) and on general knowledge G2 (which function each mnemonic performs): log entry 6. (Derived: 42_alu R120,
R122, R128 to R130 (decision D7; G2); 10_state R13, R15; 92_eei_decisions D7, D8 and 93_implementation_defined G2
(log entry 6).) -/
def Obligations.ShiftsRegReg : Prop :=
  ∀ (s : State) (rd rs1 rs2 : RegIdx),
    (∃ t, exec (.sll rd rs1 rs2) s = .next t ∧ RegEffect s t rd (BitVec.ofNat 32 ((s.reg rs1).toNat * 2 ^ ((s.reg rs2).toNat % 32))) (s.pc + 4#32)) ∧
    (∃ t, exec (.srl rd rs1 rs2) s = .next t ∧ RegEffect s t rd (BitVec.ofNat 32 ((s.reg rs1).toNat / 2 ^ ((s.reg rs2).toNat % 32))) (s.pc + 4#32)) ∧
    (∃ t, exec (.sra rd rs1 rs2) s = .next t ∧ RegEffect s t rd (BitVec.ofInt 32 ((s.reg rs1).toInt / 2 ^ ((s.reg rs2).toNat % 32))) (s.pc + 4#32))

/-- In every state and for every 32-bit immediate operand each answers a next state: rd holds the sum modulo 2^32 or the
bitwise combination of rs1 with the immediate; pc + 4; nothing else changes. It rests on the spec's own decision D8
(addresses and pc modulo 2^32, the bounds check unbounded) and on general knowledge G2 (which function each mnemonic
performs): log entry 6. (Derived: 42_alu R131, R132, R134, R135 (G2); 10_state R13, R15; 92_eei_decisions D8 and
93_implementation_defined G2 (log entry 6).) -/
def Obligations.AddAndLogicRegImm : Prop :=
  ∀ (s : State) (rd rs1 : RegIdx) (imm : Word),
    (∃ t, exec (.addi rd rs1 imm) s = .next t ∧ RegEffect s t rd (BitVec.ofInt 32 ((s.reg rs1).toInt + imm.toInt)) (s.pc + 4#32)) ∧
    (∃ t, exec (.andi rd rs1 imm) s = .next t ∧ RegEffect s t rd (s.reg rs1 &&& imm) (s.pc + 4#32)) ∧
    (∃ t, exec (.ori rd rs1 imm) s = .next t ∧ RegEffect s t rd (s.reg rs1 ||| imm) (s.pc + 4#32)) ∧
    (∃ t, exec (.xori rd rs1 imm) s = .next t ∧ RegEffect s t rd (s.reg rs1 ^^^ imm) (s.pc + 4#32))

/-- In every state each answers a next state: rd holds rs1 shifted by n = imm modulo 32, left modulo 2^32, right with
zeros, right with the sign; the other immediate bits do not enter; pc + 4; nothing else changes. It rests on the
spec's own decision D8 (addresses and pc modulo 2^32, the bounds check unbounded) and on general knowledge G2 (which
function each mnemonic performs): log entry 6. (Derived: 42_alu R133, R136 to R138 (G2); 40_decoder R88;
90_conflicts C9; 92_eei_decisions D8 and 93_implementation_defined G2 (log entry 6).) -/
def Obligations.ShiftsRegImm : Prop :=
  ∀ (s : State) (rd rs1 : RegIdx) (imm : Word),
    (∃ t, exec (.slli rd rs1 imm) s = .next t ∧ RegEffect s t rd (BitVec.ofNat 32 ((s.reg rs1).toNat * 2 ^ (imm.toNat % 32))) (s.pc + 4#32)) ∧
    (∃ t, exec (.srli rd rs1 imm) s = .next t ∧ RegEffect s t rd (BitVec.ofNat 32 ((s.reg rs1).toNat / 2 ^ (imm.toNat % 32))) (s.pc + 4#32)) ∧
    (∃ t, exec (.srai rd rs1 imm) s = .next t ∧ RegEffect s t rd (BitVec.ofInt 32 ((s.reg rs1).toInt / 2 ^ (imm.toNat % 32))) (s.pc + 4#32))

/-- eq holds when all 32 bits agree, lt compares the two's-complement readings, ltu the unsigned readings, and ISASIM's
formula (a < b) XOR (a < 0) XOR (b < 0) is ltu for all operands. (Stated: R141.) -/
def Obligations.ComparatorMeaning : Prop :=
  ∀ a b : Word, (cmpEq a b = true ↔ ∀ k, k < 32 → a.getLsbD k = b.getLsbD k) ∧
    (cmpLt a b = true ↔ a.toInt < b.toInt) ∧ (cmpLtu a b = true ↔ a.toNat < b.toNat) ∧
    cmpLtuXor a b = cmpLtu a b

/-- In every state each answers a next state: rd holds 1 when rs1 is less than the second operand, signed or unsigned,
else 0 (SLTIU reads the immediate as unsigned); pc + 4; nothing else changes. That 1 and 0 are written is the spec's
decision D26. It rests on the spec's own decisions D8 (addresses and pc modulo 2^32, the bounds check unbounded),
D26 (what the comparisons write and the branches test) and on general knowledge G3 (the set-less-than and branch
conditions): log entry 6. (Derived: 43_compare R143 to R146 (decision D26; G3); 10_state R13, R15; 92_eei_decisions
D8, D26 and 93_implementation_defined G3 (log entry 6).) -/
def Obligations.SetLessThan : Prop :=
  (∀ (s : State) (rd rs1 rs2 : RegIdx),
    (∃ t, exec (.slt rd rs1 rs2) s = .next t ∧ RegEffect s t rd (if (s.reg rs1).toInt < (s.reg rs2).toInt then 1#32 else 0#32) (s.pc + 4#32)) ∧
    (∃ t, exec (.sltu rd rs1 rs2) s = .next t ∧ RegEffect s t rd (if (s.reg rs1).toNat < (s.reg rs2).toNat then 1#32 else 0#32) (s.pc + 4#32))) ∧
  (∀ (s : State) (rd rs1 : RegIdx) (imm : Word),
    (∃ t, exec (.slti rd rs1 imm) s = .next t ∧ RegEffect s t rd (if (s.reg rs1).toInt < imm.toInt then 1#32 else 0#32) (s.pc + 4#32)) ∧
    (∃ t, exec (.sltiu rd rs1 imm) s = .next t ∧ RegEffect s t rd (if (s.reg rs1).toNat < imm.toNat then 1#32 else 0#32) (s.pc + 4#32)))

/-- Every word of opcode 0x37 is LUI, of 0x17 AUIPC, with rd and the U immediate. In every state LUI answers a next
state with rd = imm, AUIPC with rd = pc + imm modulo 2^32, pc the address of the instruction; pc + 4; nothing else
changes. That the sum is modulo 2^32 is the spec's own decision D8, and which of the two opcodes is which is G4 (log
entry 6). (Derived: 48_upper_imm R190, R191, R192 (G4); 10_state R13, R15, R19 (decision D8; log entry 6).) -/
def Obligations.UpperImmediates : Prop :=
  (∀ w : Word, (HasOpcode w 0x37#7 → decode w = .lui (w.extractLsb' 7 5) (w.extractLsb' 12 20 ++ 0#12)) ∧
    (HasOpcode w 0x17#7 → decode w = .auipc (w.extractLsb' 7 5) (w.extractLsb' 12 20 ++ 0#12))) ∧
  ∀ (s : State) (rd : RegIdx) (imm : Word),
    (∃ t, exec (.lui rd imm) s = .next t ∧ RegEffect s t rd (imm) (s.pc + 4#32)) ∧
    (∃ t, exec (.auipc rd imm) s = .next t ∧ RegEffect s t rd (BitVec.ofNat 32 (s.pc.toNat + imm.toNat)) (s.pc + 4#32))

/-- Every word of opcode 0x6F is JAL with rd and the even J immediate. In every state it answers a next state: rd holds
pc + 4 (dropped for rd = 0), the pc is pc + imm modulo 2^32 with no check of any kind, so a target outside the
memory does not fault this step; nothing else changes. That the target is taken modulo 2^32 is the spec's own
decision D8 (log entry 6). (Derived: 44_jumps R151, R154; 30_encoding R58; 10_state R13, R15, R19 (decision D8; log
entry 6).) -/
def Obligations.JalLinksAndJumps : Prop :=
  (∀ w : Word, HasOpcode w 0x6F#7 → decode w = .jal (w.extractLsb' 7 5) (immJ w) ∧ (immJ w).getLsbD 0 = false ∧
    -1048576 ≤ (immJ w).toInt ∧ (immJ w).toInt ≤ 1048574) ∧
  ∀ (s : State) (rd : RegIdx) (imm : Word),
    (∃ t, exec (.jal rd imm) s = .next t ∧ RegEffect s t rd (s.pc + 4#32) (s.pc + imm))

/-- Every word of opcode 0x67, whatever funct3, is JALR with rd, rs1 and the I immediate. In every state it answers a
next state: the pc is the old x[rs1] + imm with bit 0 kept, also when rd = rs1, rd holds pc + 4; nothing else
changes. That funct3 is not examined is the spec's own decision D6, that the target is taken modulo 2^32 its
decision D8 (log entry 6). (Derived: 44_jumps R152, R154; 30_encoding R66 (decision D6; log entry 6); 10_state R13,
R15, R19 (decision D8; log entry 6).) -/
def Obligations.JalrLinksAndJumps : Prop :=
  (∀ w : Word, HasOpcode w 0x67#7 → decode w = .jalr (w.extractLsb' 7 5) (w.extractLsb' 15 5) (immI w)) ∧
  ∀ (s : State) (rd rs1 : RegIdx) (imm : Word),
    (∃ t, exec (.jalr rd rs1 imm) s = .next t ∧ RegEffect s t rd (s.pc + 4#32) (s.reg rs1 + imm))

/-- In every state each branch answers a next state with the pc at pc + imm when rs1 equals, differs from, is less than,
is not less than rs2, signed or unsigned, else at pc + 4; every register, every byte of memory, running and faulted
unchanged. It rests on the spec's own decisions D8 (addresses and pc modulo 2^32, the bounds check unbounded), D26
(what the comparisons write and the branches test) and on general knowledge G3 (the set-less-than and branch
conditions): log entry 6. (Derived: 45_branches R160 to R166 (decision D26; G3); 43_compare R141; 92_eei_decisions
D8, D26 and 93_implementation_defined G3 (log entry 6).) -/
def Obligations.BranchesTakenOrNot : Prop :=
  ∀ (s : State) (rs1 rs2 : RegIdx) (imm : Word),
    (∃ t, exec (.beq rs1 rs2 imm) s = .next t ∧ PcEffect s t (if s.reg rs1 = s.reg rs2 then s.pc + imm else s.pc + 4#32)) ∧
    (∃ t, exec (.bne rs1 rs2 imm) s = .next t ∧ PcEffect s t (if s.reg rs1 ≠ s.reg rs2 then s.pc + imm else s.pc + 4#32)) ∧
    (∃ t, exec (.blt rs1 rs2 imm) s = .next t ∧ PcEffect s t (if (s.reg rs1).toInt < (s.reg rs2).toInt then s.pc + imm else s.pc + 4#32)) ∧
    (∃ t, exec (.bge rs1 rs2 imm) s = .next t ∧ PcEffect s t (if (s.reg rs2).toInt ≤ (s.reg rs1).toInt then s.pc + imm else s.pc + 4#32)) ∧
    (∃ t, exec (.bltu rs1 rs2 imm) s = .next t ∧ PcEffect s t (if (s.reg rs1).toNat < (s.reg rs2).toNat then s.pc + imm else s.pc + 4#32)) ∧
    (∃ t, exec (.bgeu rs1 rs2 imm) s = .next t ∧ PcEffect s t (if (s.reg rs2).toNat ≤ (s.reg rs1).toNat then s.pc + imm else s.pc + 4#32))

/-- Words of opcode 0x03 with funct3 000, 001, 010, 100, 101 are LB, LH, LW, LBU, LHU. When the bytes at ea = x[rs1] +
imm lie inside the memory, at any alignment, each answers a next state: rd holds the little-endian value, sign-
extended for LB and LH, zero-extended for LBU and LHU (nothing written for rd = 0); pc + 4; nothing else changes.
That any alignment will do is the spec's own decision D10, the funct3 values are its decision D4, from general
knowledge G1, and the bounds check its decision D8 (log entry 6). (Derived: 46_loads R171 to R177; 30_encoding R63
(decision D4; G1; log entry 6); 20_memory R33, R35 (decision D8), R36 (decision D10; log entry 6); 10_state R13,
R15.) -/
def Obligations.LoadsReadAndExtend : Prop :=
  (∀ w : Word,
    (HasCodes w 0x03#7 0b000#3 → decode w = .lb (w.extractLsb' 7 5) (w.extractLsb' 15 5) (immI w)) ∧
    (HasCodes w 0x03#7 0b001#3 → decode w = .lh (w.extractLsb' 7 5) (w.extractLsb' 15 5) (immI w)) ∧
    (HasCodes w 0x03#7 0b010#3 → decode w = .lw (w.extractLsb' 7 5) (w.extractLsb' 15 5) (immI w)) ∧
    (HasCodes w 0x03#7 0b100#3 → decode w = .lbu (w.extractLsb' 7 5) (w.extractLsb' 15 5) (immI w)) ∧
    (HasCodes w 0x03#7 0b101#3 → decode w = .lhu (w.extractLsb' 7 5) (w.extractLsb' 15 5) (immI w))) ∧
  ∀ (s : State) (rd rs1 : RegIdx) (imm : Word),
    ((s.reg rs1 + imm).toNat + 1 ≤ s.memSize → ∃ t, exec (.lb rd rs1 imm) s = .next t ∧
      RegEffect s t rd ((Memory.read s.mem (s.reg rs1 + imm).toNat).signExtend 32) (s.pc + 4#32)) ∧
    ((s.reg rs1 + imm).toNat + 2 ≤ s.memSize → ∃ t, exec (.lh rd rs1 imm) s = .next t ∧
      RegEffect s t rd ((Memory.read s.mem ((s.reg rs1 + imm).toNat + 1) ++ Memory.read s.mem (s.reg rs1 + imm).toNat).signExtend 32) (s.pc + 4#32)) ∧
    ((s.reg rs1 + imm).toNat + 4 ≤ s.memSize → ∃ t, exec (.lw rd rs1 imm) s = .next t ∧
      RegEffect s t rd (Memory.read s.mem ((s.reg rs1 + imm).toNat + 3) ++ Memory.read s.mem ((s.reg rs1 + imm).toNat + 2) ++
        Memory.read s.mem ((s.reg rs1 + imm).toNat + 1) ++ Memory.read s.mem (s.reg rs1 + imm).toNat) (s.pc + 4#32)) ∧
    ((s.reg rs1 + imm).toNat + 1 ≤ s.memSize → ∃ t, exec (.lbu rd rs1 imm) s = .next t ∧
      RegEffect s t rd ((Memory.read s.mem (s.reg rs1 + imm).toNat).setWidth 32) (s.pc + 4#32)) ∧
    ((s.reg rs1 + imm).toNat + 2 ≤ s.memSize → ∃ t, exec (.lhu rd rs1 imm) s = .next t ∧
      RegEffect s t rd ((Memory.read s.mem ((s.reg rs1 + imm).toNat + 1) ++ Memory.read s.mem (s.reg rs1 + imm).toNat).setWidth 32) (s.pc + 4#32))

/-- For every rd, 0 included, a load of n bytes at ea with u(ea) + n > MEM_SIZE ends in MemoryFault(pc, ea), and the
state it leaves is the state before with faulted set. It rests on the spec's own decisions D8 (addresses and pc
modulo 2^32, the bounds check unbounded), D11 (what a MemoryFault leaves): log entry 6. The model's own form in it:
the fault carries its state (log entry 2). (Derived: 46_loads R176, R177 (decision D8); 60_exceptions R201 to R204
(decision D11); 92_eei_decisions D8, D11 (log entry 6).) -/
def Obligations.LoadsOutsideMemoryFault : Prop :=
  ∀ (s : State) (rd rs1 : RegIdx) (imm : Word),
    (s.memSize < (s.reg rs1 + imm).toNat + 1 → FaultsAt s (s.reg rs1 + imm) (exec (.lb rd rs1 imm) s)) ∧
    (s.memSize < (s.reg rs1 + imm).toNat + 2 → FaultsAt s (s.reg rs1 + imm) (exec (.lh rd rs1 imm) s)) ∧
    (s.memSize < (s.reg rs1 + imm).toNat + 4 → FaultsAt s (s.reg rs1 + imm) (exec (.lw rd rs1 imm) s)) ∧
    (s.memSize < (s.reg rs1 + imm).toNat + 1 → FaultsAt s (s.reg rs1 + imm) (exec (.lbu rd rs1 imm) s)) ∧
    (s.memSize < (s.reg rs1 + imm).toNat + 2 → FaultsAt s (s.reg rs1 + imm) (exec (.lhu rd rs1 imm) s))

/-- Words of opcode 0x23 with funct3 000, 001, 010 are SB, SH, SW. On a canonical memory (an invariant of the model),
when the bytes at ea = x[rs1] + imm lie inside the memory, at any alignment, each answers a next state: byte k of
x[rs2] stands at ea + k for the 1, 2 or 4 low bytes, every byte outside them, every register, running and faulted
unchanged, pc + 4. That any alignment will do is the spec's own decision D10, the funct3 values are its decision D4,
from general knowledge G1, and the bounds check its decision D8 (log entry 6). The model's own form in it: the
canonical memory (log entry 7). (Derived: 47_stores R181 to R184; 30_encoding R63 (decision D4; G1; log entry 6);
20_memory R34, R35 (decision D8), R36 (decision D10; log entry 6).) -/
def Obligations.StoresWriteLowBytes : Prop :=
  (∀ w : Word,
    (HasCodes w 0x23#7 0b000#3 → decode w = .sb (w.extractLsb' 15 5) (w.extractLsb' 20 5) (immS w)) ∧
    (HasCodes w 0x23#7 0b001#3 → decode w = .sh (w.extractLsb' 15 5) (w.extractLsb' 20 5) (immS w)) ∧
    (HasCodes w 0x23#7 0b010#3 → decode w = .sw (w.extractLsb' 15 5) (w.extractLsb' 20 5) (immS w))) ∧
  ∀ (s : State) (rs1 rs2 : RegIdx) (imm : Word), Memory.wf s.mem = true →
    ((s.reg rs1 + imm).toNat + 1 ≤ s.memSize → ∃ t, exec (.sb rs1 rs2 imm) s = .next t ∧
      StoreEffect s t (s.reg rs1 + imm) 1 (s.reg rs2) (s.pc + 4#32)) ∧
    ((s.reg rs1 + imm).toNat + 2 ≤ s.memSize → ∃ t, exec (.sh rs1 rs2 imm) s = .next t ∧
      StoreEffect s t (s.reg rs1 + imm) 2 (s.reg rs2) (s.pc + 4#32)) ∧
    ((s.reg rs1 + imm).toNat + 4 ≤ s.memSize → ∃ t, exec (.sw rs1 rs2 imm) s = .next t ∧
      StoreEffect s t (s.reg rs1 + imm) 4 (s.reg rs2) (s.pc + 4#32))

/-- A store of n bytes at ea with u(ea) + n > MEM_SIZE ends in MemoryFault(pc, ea): no byte is written, not even those
inside the memory, and the state it leaves is the state before with faulted set. It rests on the spec's own
decisions D8 (addresses and pc modulo 2^32, the bounds check unbounded), D11 (what a MemoryFault leaves): log entry
6. The model's own form in it: the fault carries its state (log entry 2). (Derived: 47_stores R184 (decision D8);
20_memory R34; 60_exceptions R201 to R204 (decision D11); 92_eei_decisions D8, D11 (log entry 6).) -/
def Obligations.StoresOutsideMemoryFault : Prop :=
  ∀ (s : State) (rs1 rs2 : RegIdx) (imm : Word),
    (s.memSize < (s.reg rs1 + imm).toNat + 1 → FaultsAt s (s.reg rs1 + imm) (exec (.sb rs1 rs2 imm) s)) ∧
    (s.memSize < (s.reg rs1 + imm).toNat + 2 → FaultsAt s (s.reg rs1 + imm) (exec (.sh rs1 rs2 imm) s)) ∧
    (s.memSize < (s.reg rs1 + imm).toNat + 4 → FaultsAt s (s.reg rs1 + imm) (exec (.sw rs1 rs2 imm) s))

/-- On a canonical memory, after SW the LW of the same address gives x[rs2]; after SH, LH and LHU give its low half
sign- and zero-extended; after SB, LB and LBU its low byte. The load's base register and offset may differ, the
address is the same; rd is not x[0]. It rests on the spec's own decisions D8 (addresses and pc modulo 2^32, the
bounds check unbounded), D10 (misaligned accesses performed): log entry 6. The model's own form in it: the canonical
memory (log entry 7). (Derived: 20_memory R36, R41; 95_test_vectors S-E2E-4; 46_loads R177; 92_eei_decisions D8, D10
(log entry 6).) -/
def Obligations.LoadAfterStore : Prop :=
  ∀ (s : State) (rs1 rs2 rb rd : RegIdx) (imm imm' : Word), Memory.wf s.mem = true → rd ≠ 0#5 →
    (∀ t, exec (.sw rs1 rs2 imm) s = .next t → t.reg rb + imm' = s.reg rs1 + imm →
      ∃ u, exec (.lw rd rb imm') t = .next u ∧ u.reg rd = s.reg rs2) ∧
    (∀ t, exec (.sh rs1 rs2 imm) s = .next t → t.reg rb + imm' = s.reg rs1 + imm →
      ∃ u, exec (.lh rd rb imm') t = .next u ∧ u.reg rd = ((s.reg rs2).setWidth 16).signExtend 32) ∧
    (∀ t, exec (.sh rs1 rs2 imm) s = .next t → t.reg rb + imm' = s.reg rs1 + imm →
      ∃ u, exec (.lhu rd rb imm') t = .next u ∧ u.reg rd = ((s.reg rs2).setWidth 16).setWidth 32) ∧
    (∀ t, exec (.sb rs1 rs2 imm) s = .next t → t.reg rb + imm' = s.reg rs1 + imm →
      ∃ u, exec (.lb rd rb imm') t = .next u ∧ u.reg rd = ((s.reg rs2).setWidth 8).signExtend 32) ∧
    (∀ t, exec (.sb rs1 rs2 imm) s = .next t → t.reg rb + imm' = s.reg rs1 + imm →
      ∃ u, exec (.lbu rd rb imm') t = .next u ∧ u.reg rd = ((s.reg rs2).setWidth 8).setWidth 32)

/-- On a canonical memory, with the enable on: an SW to pc + 4 that completes is followed by a step that executes the
decoding of the stored word, with no fence between. It rests on the spec's own decision D8 (addresses and pc modulo
2^32, the bounds check unbounded): log entry 6. The model's own form in it: the canonical memory (log entry 7).
(Derived: 20_memory R44; 47_stores R186; 92_eei_decisions D8 (log entry 6).) -/
def Obligations.StoreIntoNextInstruction : Prop :=
  ∀ (s t : State) (rs1 rs2 : RegIdx) (imm : Word), Memory.wf s.mem = true → s.running = true → s.faulted = false →
    s.reg rs1 + imm = s.pc + 4#32 → exec (.sw rs1 rs2 imm) s = .next t →
    t.pc = s.pc + 4#32 ∧ step t = exec (decode (s.reg rs2)) t

/-- Every word of opcode 0x73 decodes to ECALL with immediate 0. In every state it answers a next state with pc + 4,
every register and byte of memory and faulted unchanged; running is cleared when the full 32-bit x[10] is 10 and
unchanged otherwise. It rests on the spec's own decisions D8 (addresses and pc modulo 2^32, the bounds check
unbounded), D13 (how ECALL reads x[10]), D14 (running, and no step once stopped): log entry 6. (Derived:
49_system_unknown R195, R196 (decision D13); 30_encoding R70; 60_exceptions R220; 92_eei_decisions D8, D13, D14 (log
entry 6).) -/
def Obligations.EcallHaltsOnTenElseContinues : Prop :=
  (∀ w : Word, HasOpcode w 0x73#7 → decode w = .ecall ∧ (decodeFields w).imm = 0#32) ∧
  ∀ s : State,
    (s.reg 10#5 = 0x0000000A#32 → ∃ t, exec .ecall s = .next t ∧ t.running = false ∧ t.pc = s.pc + 4#32 ∧
      SameRegs s t ∧ (∀ a, Memory.read t.mem a = Memory.read s.mem a) ∧ t.faulted = s.faulted ∧ t.memSize = s.memSize) ∧
    (s.reg 10#5 ≠ 0x0000000A#32 → ∃ t, exec .ecall s = .next t ∧ PcEffect s t (s.pc + 4#32))

/-- In every state exec of the sentinel answers a next state with pc + 4 and nothing else changed; an enabled step that
fetches a word no row names reports Warn with the pc and that word. That the pc advances is conflict C1 and decision
D12. It rests on the spec's own decisions D8 (addresses and pc modulo 2^32, the bounds check unbounded), D12 (the pc
advances on the sentinel, conflict C1), D15 (the names of the outcomes): log entry 6. The model's own form in it:
outcomes as a function of the state before (log entry 9). (Derived: 49_system_unknown R197, R198 (decision D12;
90_conflicts C1); 60_exceptions R205; 92_eei_decisions D8, D12, D15 (log entry 6).) -/
def Obligations.UnknownIsReportedNoOp : Prop :=
  (∀ (s : State) (w : Word), ∃ t, exec (.unknown w) s = .next t ∧ PcEffect s t (s.pc + 4#32)) ∧
  (∀ (s : State) (w : Word), s.running = true → s.faulted = false → s.fetch = some w → isUnknownWord w = true →
    stepOutcome s = some (.warn s.pc w) ∧ PcEffect s (stateAfter s) (s.pc + 4#32))

/-- Whenever exec answers a next state its pc is pc + imm for JAL, x[rs1] + imm for JALR, pc + imm for a branch whose
condition holds, and pc + 4 for every other instruction, ECALL in both its cases and the sentinel included; whenever
exec faults, the state left keeps the pc. The conditions of the six branches are the spec's own decision D26, from
general knowledge G3 (log entry 6); that a fault keeps the pc is its decision D11. It rests also on the spec's own
decisions D8 (addresses and pc modulo 2^32, the bounds check unbounded), D12 (the pc advances on the sentinel,
conflict C1): log entry 6. The model's own form in it: the fault carries its state (log entry 2). (Derived: 10_state
R17; 41_step_cycle R105; 44_jumps R151, R152; 45_branches R160 to R166 (decision D26; G3; log entry 6);
60_exceptions R203 (decision D11); 92_eei_decisions D8, D12 (log entry 6).) -/
def Obligations.NextPcOfEveryInstruction : Prop :=
  ∀ (i : Instr) (s : State),
    (∀ t, exec i s = .next t → t.pc =
      match i with
      | .jal _ imm => s.pc + imm
      | .jalr _ rs1 imm => s.reg rs1 + imm
      | .beq rs1 rs2 imm => if s.reg rs1 = s.reg rs2 then s.pc + imm else s.pc + 4#32
      | .bne rs1 rs2 imm => if s.reg rs1 = s.reg rs2 then s.pc + 4#32 else s.pc + imm
      | .blt rs1 rs2 imm => if (s.reg rs1).toInt < (s.reg rs2).toInt then s.pc + imm else s.pc + 4#32
      | .bge rs1 rs2 imm => if (s.reg rs1).toInt < (s.reg rs2).toInt then s.pc + 4#32 else s.pc + imm
      | .bltu rs1 rs2 imm => if (s.reg rs1).toNat < (s.reg rs2).toNat then s.pc + imm else s.pc + 4#32
      | .bgeu rs1 rs2 imm => if (s.reg rs1).toNat < (s.reg rs2).toNat then s.pc + 4#32 else s.pc + imm
      | _ => s.pc + 4#32) ∧
    (∀ pc addr t, exec i s = .fault (.memoryFault pc addr t) → t.pc = s.pc)

/-- Whenever exec answers a next state, running is as before, or the instruction is ECALL with x[10] = 10 and running is
clear; faulted and the memory size are unchanged. Of a MemoryFault, which stops the machine too (R203), this
statement does not speak, since it answers no next state. It rests on the spec's own decisions D11 (what a
MemoryFault leaves), D14 (running, and no step once stopped): log entry 6. The model's own form in it: MEM_SIZE in
State (log entry 1). (Derived: 10_state R21, R22, R27 (decisions D11, D14); 60_exceptions R203, R220;
92_eei_decisions D11, D14 (log entry 6).) -/
def Obligations.RunningChangesOnlyByExitEcall : Prop :=
  ∀ (i : Instr) (s t : State), exec i s = .next t →
    t.faulted = s.faulted ∧ t.memSize = s.memSize ∧
    (t.running = s.running ∨ (i = .ecall ∧ s.reg 10#5 = 0x0000000A#32 ∧ t.running = false))

/-- An instruction that accesses no data memory answers a next state in every state. One that accesses n bytes either
answers a next state or ends in MemoryFault with the pc and the state before with faulted set. Nothing is refused.
It rests on the spec's own decisions D8 (addresses and pc modulo 2^32, the bounds check unbounded), D11 (what a
MemoryFault leaves): log entry 6. The model's own form in it: the fault carries its state (log entry 2). (Derived:
60_exceptions R202, R203 (decision D11); 20_memory R35, R38; 92_eei_decisions D8, D11 (log entry 6).) -/
def Obligations.OnlyDataAccessesFault : Prop :=
  ∀ (i : Instr) (s : State),
    (dataBytes i = none → ∃ t, exec i s = .next t) ∧
    ((∃ t, exec i s = .next t) ∨ (∃ n addr, dataBytes i = some n ∧ s.memSize < addr.toNat + n ∧ FaultsAt s addr (exec i s)))

/-- Whenever exec answers a next state: for every instruction that is no store all of memory reads as before; for a
store every byte outside the bytes at x[rs1] + imm reads as before. It rests on the spec's own decision D8
(addresses and pc modulo 2^32, the bounds check unbounded): log entry 6. The model's own form in it: the canonical
memory (log entry 7). (Derived: 10_state R25; 20_memory R30, R38; 92_eei_decisions D8 (log entry 6).) -/
def Obligations.OnlyStoresChangeMemory : Prop :=
  ∀ (i : Instr) (s t : State), exec i s = .next t →
    (isStore i = false → ∀ a, Memory.read t.mem a = Memory.read s.mem a) ∧
    (∀ rs1 rs2 imm n, (i = .sb rs1 rs2 imm ∧ n = 1) ∨ (i = .sh rs1 rs2 imm ∧ n = 2) ∨ (i = .sw rs1 rs2 imm ∧ n = 4) →
      ∀ a, a < (s.effAddr rs1 imm).toNat ∨ (s.effAddr rs1 imm).toNat + n ≤ a →
        Memory.read t.mem a = Memory.read s.mem a)

/-- Whenever exec answers a next state every register but the destination that 10_state R14 gives the instruction reads
as before, and an instruction with no destination changes none; x[0] reads zero in every state. It rests on the
spec's own decisions D1 (the ports of the register file), D25 (how x[0] is kept zero): log entry 6. The model's own
form in it: the slot of x[0] (log entry 11). (Derived: 10_state R12, R13, R14 (decision D1); 92_eei_decisions D1,
D25 (log entry 6).) -/
def Obligations.OneDestinationRegister : Prop :=
  (∀ (i : Instr) (s t : State), exec i s = .next t → ∀ r, destination i ≠ some r → t.reg r = s.reg r) ∧
  (∀ s : State, s.reg 0#5 = 0x00000000#32)

/-- Byte 4i + k of the dump is x[i][31-8k : 24-8k], for the 32 registers and k = 0 .. 3, 128 bytes in all; a dump is
written after a step exactly when its outcome is Halt, and it is the dump of the state left. It rests on the spec's
own decisions D14 (running, and no step once stopped), D21 (the order of the dump): log entry 6. The model's own
form in it: outcomes as a function of the state before (log entry 9). (Derived: 60_exceptions R224 (decision D21),
R113, R220; 20_memory R37; 92_eei_decisions D14, D21 (log entry 6).) -/
def Obligations.RegisterDumpBytes : Prop :=
  (∀ s : State, (registerDump s).length = 128 ∧
    ∀ (i : RegIdx) (k : Nat), k < 4 →
      (registerDump s)[4 * i.toNat + k]? = some ((s.reg i).extractLsb' (24 - 8 * k) 8)) ∧
  (∀ s d, dumpAfterStep s = some d ↔ stepOutcome s = some .halt ∧ d = registerDump (stateAfter s))

/-- On a canonical memory an image of at most MEM_SIZE bytes is placed byte by byte from address 0, every byte beyond it
and everything else of the state unchanged; a longer one is refused as too large, a missing one as not found. It
rests on the spec's own decision D20 (an oversized image is rejected): log entry 6. The model's own form in it: the
canonical memory (log entry 7). (Derived: 70_reset_and_hazards R246, R247 (decision D20); 60_exceptions R225;
92_eei_decisions D20 (log entry 6).) -/
def Obligations.ImageLoadPlacesBytes : Prop :=
  (∀ (s : State) (bytes : List Byte), Memory.wf s.mem = true → bytes.length ≤ s.memSize →
    ∃ t, loadImage (some bytes) s = .ok t ∧ (∀ k, ∀ h : k < bytes.length, Memory.read t.mem k = bytes[k]) ∧
      (∀ a, bytes.length ≤ a → Memory.read t.mem a = Memory.read s.mem a) ∧ SameRegs s t ∧ t.pc = s.pc ∧
      t.running = s.running ∧ t.faulted = s.faulted ∧ t.memSize = s.memSize) ∧
  (∀ (s : State) (bytes : List Byte), s.memSize < bytes.length → loadImage (some bytes) s = .error .tooLarge) ∧
  (∀ s : State, loadImage none s = .error .notFound)

/-- From any host state whose core has a legal size, the command reset gives a core in the reset state of that size,
with the enable on, and the same breakpoints. The zeros and running = 1 are the spec's own decisions D18 and D19
(log entries 4, 5). It rests also on the spec's own decisions D9 (the range of MEM_SIZE), D11 (what a MemoryFault
leaves): log entry 6. The model's own form in it: MEM_SIZE in State (log entry 1). (Derived: 70_reset_and_hazards
R240, R241 (decisions D11, D18, D19; log entries 4, 5); 60_exceptions R228, R231; 92_eei_decisions D9, D11 (log
entry 6).) -/
def Obligations.HostResetRestarts : Prop :=
  ∀ h : HostState, Config.minMemSize ≤ h.core.memSize → h.core.memSize ≤ Config.maxMemSize →
    (h.command .reset).1.core = State.resetWith h.core.memSize ∧ (h.command .reset).1.core.enabled = true ∧
    ((h.command .reset).1.core.reg 2#5).toNat = h.core.memSize ∧
    (h.command .reset).1.session.breakpoints = h.session.breakpoints

/-- After a turn of the cycle loop the core is the same or is the state after one step; after a command it is the same,
or the state after one step, or the reset state. No command writes a register, the pc or one memory location. It
rests on the spec's own decision D24 (the controller outside the CORE): log entry 6. The model's own form in it: the
fault carries its state (log entry 2), no step is the fault noStep (log entry 3), the controller's conventions (log
entry 12). (Derived: 60_exceptions R226, R228, R232; 10_state R27; 92_eei_decisions D24 (log entry 6).) -/
def Obligations.ControllerNeverChangesAStep : Prop :=
  ∀ h : HostState, (h.turn.1.core = h.core ∨ h.turn.1.core = stateAfter h.core) ∧
    ∀ c, (h.command c).1.core = h.core ∨ (h.command c).1.core = stateAfter h.core ∨
      (c = .reset ∧ (h.command c).1.core = hostReset h.core)

/-- With the core enabled and the controller not at a prompt: if the pc is a breakpoint, the turn takes no step, forces
the budget to 0, whatever was left, and prompts; the step command given then takes exactly one step, from the same
core. That the breakpoint is not tested again after the command is the model's choice (log entry 12). It rests on
the spec's own decision D24 (the controller outside the CORE): log entry 6. (Derived: 60_exceptions R227;
95_test_vectors 1.5; log entry 12; 92_eei_decisions D24 (log entry 6).) -/
def Obligations.BreakpointPromptsOnceThenResumes : Prop :=
  ∀ h : HostState, h.core.enabled = true → h.session.awaitingInput = false → h.core.pc ∈ h.session.breakpoints →
    h.turn.2 = .prompted true ∧ h.turn.1.core = h.core ∧ h.turn.1.session.budget = some 0 ∧
    h.turn.1.session.awaitingInput = true ∧ h.turn.1.turn.2 = .blocked ∧
    (h.turn.1.command (.step none)).1.core = stateAfter h.core ∧
    (h.turn.1.command (.step none)).1.session.budget = some 0

/-- For every legal size that is a multiple of 4, MEM_SIZE / 4 steps from reset all answer next states and leave the
reset state with the pc at MEM_SIZE; each reports Warn; the step after them faults at MEM_SIZE. The run starts from
the reset state, so that every byte is zero is the spec's own decision D19 (log entry 5) and that the machine runs,
with running = 1, its decision D18 (log entry 4). It rests also on the spec's own decisions D8 (addresses and pc
modulo 2^32, the bounds check unbounded), D9 (the range of MEM_SIZE), D12 (the pc advances on the sentinel, conflict
C1), D15 (the names of the outcomes): log entry 6. The model's own form in it: outcomes as a function of the state
before (log entry 9). (Derived: 41_step_cycle R113 (c) (derived from R103, R109, R197); 90_conflicts C8;
70_reset_and_hazards R241, R248 (decisions D18, D19; log entries 4, 5); 92_eei_decisions D8, D9, D12, D15 (log entry
6).) -/
def Obligations.ClearedMemoryRunEnds : Prop :=
  ∀ n, Config.minMemSize ≤ n → n ≤ Config.maxMemSize → 4 ∣ n →
    (∀ k, k ≤ n / 4 → Host.Core.run core k (State.resetWith n) =
      .next ((State.resetWith n).goto (BitVec.ofNat 32 (4 * k)))) ∧
    (∀ k, k < n / 4 → stepOutcome ((State.resetWith n).goto (BitVec.ofNat 32 (4 * k))) =
      some (.warn (BitVec.ofNat 32 (4 * k)) 0#32)) ∧
    stepOutcome ((State.resetWith n).goto (BitVec.ofNat 32 n)) =
      some (.fault (BitVec.ofNat 32 n) (BitVec.ofNat 32 n))

/-- A host that has taken a step since the last reset has no image load. A turn or a command that steps makes it such a
host, and no turn and no command but reset makes it one that has not. After reset an image of at most the memory
size loads, into the launch state and with the same controller; a longer one is refused as too large. That a load
before the first step may be repeated is the model's choice (log entry 10). It rests on the spec's own decisions D18
(the reset values), D19 (cleared memory is zero), D20 (an oversized image is rejected), D24 (the controller outside
the CORE): log entries 4, 5, 6. The model's own form in it: the controller's conventions (log entry 12). (Derived:
60_exceptions R228, R232; 70_reset_and_hazards R240, R246, R247 (decision D20), R248 (decision D19);
92_eei_decisions D18, D19, D20, D24 (log entries 4, 5, 6).) -/
def Obligations.MidRunTheHostOnlyResets : Prop :=
  ∀ h : HostState,
    (h.started = true → (∀ image, h.load image = none) ∧ h.turn.1.started = true ∧
      ∀ c, c ≠ .reset → (h.command c).1.started = true) ∧
    (∀ o e d, h.turn.2 = .stepped o e d → h.turn.1.started = true) ∧
    (∀ c o e d, (h.command c).2 = .resumed (.stepped o e d) → (h.command c).1.started = true) ∧
    (∀ bytes : List Byte, bytes.length ≤ h.core.memSize → ∃ h', (h.command .reset).1.load (some bytes) = some (.ok h') ∧
      launch h.core.memSize bytes = .ok h'.core ∧ h'.session = (h.command .reset).1.session) ∧
    (∀ bytes : List Byte, h.core.memSize < bytes.length →
      (h.command .reset).1.load (some bytes) = some (.error .tooLarge))
end

