-- ==== Sys2Proof/Laws/Decode.lean ====
section
/-! SUPPORT. The bits of the six layouts (30_encoding R51), the fields read back from them, and small facts about the
decoder. -/

namespace Sys2Proof

/-- The bits of the R layout. -/
theorem encodeR_getLsbD (f7 : BitVec 7) (rs2 rs1 : RegIdx) (f3 : BitVec 3) (rd : RegIdx) (op : BitVec 7)
    {k : Nat} (hk : k < 32) : (encodeR f7 rs2 rs1 f3 rd op).getLsbD k =
    if k < 7 then op.getLsbD k
    else if k < 12 then rd.getLsbD (k - 7)
    else if k < 15 then f3.getLsbD (k - 12)
    else if k < 20 then rs1.getLsbD (k - 15)
    else if k < 25 then rs2.getLsbD (k - 20)
    else f7.getLsbD (k - 25) := by
  show BitVec.getLsbD (w := 7 + 5 + 5 + 3 + 5 + 7) (f7 ++ rs2 ++ rs1 ++ f3 ++ rd ++ op) k = _
  simp only [BitVec.getLsbD_append]
  interval_cases k <;> simp

theorem encodeR_getElem (f7 : BitVec 7) (rs2 rs1 : RegIdx) (f3 : BitVec 3) (rd : RegIdx) (op : BitVec 7)
    {k : Nat} (hk : k < 32) : (encodeR f7 rs2 rs1 f3 rd op)[k] =
    if k < 7 then op.getLsbD k
    else if k < 12 then rd.getLsbD (k - 7)
    else if k < 15 then f3.getLsbD (k - 12)
    else if k < 20 then rs1.getLsbD (k - 15)
    else if k < 25 then rs2.getLsbD (k - 20)
    else f7.getLsbD (k - 25) := by
  rw [← encodeR_getLsbD f7 rs2 rs1 f3 rd op hk, BitVec.getLsbD_eq_getElem hk]

/-- The bits of the I layout. -/
theorem encodeI_getLsbD (imm : Word) (rs1 : RegIdx) (f3 : BitVec 3) (rd : RegIdx) (op : BitVec 7)
    {k : Nat} (hk : k < 32) : (encodeI imm rs1 f3 rd op).getLsbD k =
    if k < 7 then op.getLsbD k
    else if k < 12 then rd.getLsbD (k - 7)
    else if k < 15 then f3.getLsbD (k - 12)
    else if k < 20 then rs1.getLsbD (k - 15)
    else imm.getLsbD (0 + (k - 20)) := by
  show BitVec.getLsbD (w := 12 + 5 + 3 + 5 + 7) (imm.extractLsb' 0 12 ++ rs1 ++ f3 ++ rd ++ op) k = _
  simp only [BitVec.getLsbD_append, BitVec.getLsbD_extractLsb']
  interval_cases k <;> simp

theorem encodeI_getElem (imm : Word) (rs1 : RegIdx) (f3 : BitVec 3) (rd : RegIdx) (op : BitVec 7)
    {k : Nat} (hk : k < 32) : (encodeI imm rs1 f3 rd op)[k] =
    if k < 7 then op.getLsbD k
    else if k < 12 then rd.getLsbD (k - 7)
    else if k < 15 then f3.getLsbD (k - 12)
    else if k < 20 then rs1.getLsbD (k - 15)
    else imm.getLsbD (0 + (k - 20)) := by
  rw [← encodeI_getLsbD imm rs1 f3 rd op hk, BitVec.getLsbD_eq_getElem hk]

/-- The bits of the S layout. -/
theorem encodeS_getLsbD (imm : Word) (rs2 rs1 : RegIdx) (f3 : BitVec 3) (op : BitVec 7)
    {k : Nat} (hk : k < 32) : (encodeS imm rs2 rs1 f3 op).getLsbD k =
    if k < 7 then op.getLsbD k
    else if k < 12 then imm.getLsbD (0 + (k - 7))
    else if k < 15 then f3.getLsbD (k - 12)
    else if k < 20 then rs1.getLsbD (k - 15)
    else if k < 25 then rs2.getLsbD (k - 20)
    else imm.getLsbD (5 + (k - 25)) := by
  show BitVec.getLsbD (w := 7 + 5 + 5 + 3 + 5 + 7) (imm.extractLsb' 5 7 ++ rs2 ++ rs1 ++ f3 ++ imm.extractLsb' 0 5 ++ op) k = _
  simp only [BitVec.getLsbD_append, BitVec.getLsbD_extractLsb']
  interval_cases k <;> simp

theorem encodeS_getElem (imm : Word) (rs2 rs1 : RegIdx) (f3 : BitVec 3) (op : BitVec 7)
    {k : Nat} (hk : k < 32) : (encodeS imm rs2 rs1 f3 op)[k] =
    if k < 7 then op.getLsbD k
    else if k < 12 then imm.getLsbD (0 + (k - 7))
    else if k < 15 then f3.getLsbD (k - 12)
    else if k < 20 then rs1.getLsbD (k - 15)
    else if k < 25 then rs2.getLsbD (k - 20)
    else imm.getLsbD (5 + (k - 25)) := by
  rw [← encodeS_getLsbD imm rs2 rs1 f3 op hk, BitVec.getLsbD_eq_getElem hk]

/-- The bits of the B layout. -/
theorem encodeB_getLsbD (imm : Word) (rs2 rs1 : RegIdx) (f3 : BitVec 3) (op : BitVec 7)
    {k : Nat} (hk : k < 32) : (encodeB imm rs2 rs1 f3 op).getLsbD k =
    if k < 7 then op.getLsbD k
    else if k < 8 then imm.getLsbD (11 + (k - 7))
    else if k < 12 then imm.getLsbD (1 + (k - 8))
    else if k < 15 then f3.getLsbD (k - 12)
    else if k < 20 then rs1.getLsbD (k - 15)
    else if k < 25 then rs2.getLsbD (k - 20)
    else if k < 31 then imm.getLsbD (5 + (k - 25))
    else imm.getLsbD (12 + (k - 31)) := by
  show BitVec.getLsbD (w := 1 + 6 + 5 + 5 + 3 + 4 + 1 + 7) (imm.extractLsb' 12 1 ++ imm.extractLsb' 5 6 ++ rs2 ++ rs1 ++ f3 ++ imm.extractLsb' 1 4 ++ imm.extractLsb' 11 1 ++ op) k = _
  simp only [BitVec.getLsbD_append, BitVec.getLsbD_extractLsb']
  interval_cases k <;> simp

theorem encodeB_getElem (imm : Word) (rs2 rs1 : RegIdx) (f3 : BitVec 3) (op : BitVec 7)
    {k : Nat} (hk : k < 32) : (encodeB imm rs2 rs1 f3 op)[k] =
    if k < 7 then op.getLsbD k
    else if k < 8 then imm.getLsbD (11 + (k - 7))
    else if k < 12 then imm.getLsbD (1 + (k - 8))
    else if k < 15 then f3.getLsbD (k - 12)
    else if k < 20 then rs1.getLsbD (k - 15)
    else if k < 25 then rs2.getLsbD (k - 20)
    else if k < 31 then imm.getLsbD (5 + (k - 25))
    else imm.getLsbD (12 + (k - 31)) := by
  rw [← encodeB_getLsbD imm rs2 rs1 f3 op hk, BitVec.getLsbD_eq_getElem hk]

/-- The bits of the U layout. -/
theorem encodeU_getLsbD (imm : Word) (rd : RegIdx) (op : BitVec 7)
    {k : Nat} (hk : k < 32) : (encodeU imm rd op).getLsbD k =
    if k < 7 then op.getLsbD k
    else if k < 12 then rd.getLsbD (k - 7)
    else imm.getLsbD (12 + (k - 12)) := by
  show BitVec.getLsbD (w := 20 + 5 + 7) (imm.extractLsb' 12 20 ++ rd ++ op) k = _
  simp only [BitVec.getLsbD_append, BitVec.getLsbD_extractLsb']
  interval_cases k <;> simp

theorem encodeU_getElem (imm : Word) (rd : RegIdx) (op : BitVec 7)
    {k : Nat} (hk : k < 32) : (encodeU imm rd op)[k] =
    if k < 7 then op.getLsbD k
    else if k < 12 then rd.getLsbD (k - 7)
    else imm.getLsbD (12 + (k - 12)) := by
  rw [← encodeU_getLsbD imm rd op hk, BitVec.getLsbD_eq_getElem hk]

/-- The bits of the J layout. -/
theorem encodeJ_getLsbD (imm : Word) (rd : RegIdx) (op : BitVec 7)
    {k : Nat} (hk : k < 32) : (encodeJ imm rd op).getLsbD k =
    if k < 7 then op.getLsbD k
    else if k < 12 then rd.getLsbD (k - 7)
    else if k < 20 then imm.getLsbD (12 + (k - 12))
    else if k < 21 then imm.getLsbD (11 + (k - 20))
    else if k < 31 then imm.getLsbD (1 + (k - 21))
    else imm.getLsbD (20 + (k - 31)) := by
  show BitVec.getLsbD (w := 1 + 10 + 1 + 8 + 5 + 7) (imm.extractLsb' 20 1 ++ imm.extractLsb' 1 10 ++ imm.extractLsb' 11 1 ++ imm.extractLsb' 12 8 ++ rd ++ op) k = _
  simp only [BitVec.getLsbD_append, BitVec.getLsbD_extractLsb']
  interval_cases k <;> simp

theorem encodeJ_getElem (imm : Word) (rd : RegIdx) (op : BitVec 7)
    {k : Nat} (hk : k < 32) : (encodeJ imm rd op)[k] =
    if k < 7 then op.getLsbD k
    else if k < 12 then rd.getLsbD (k - 7)
    else if k < 20 then imm.getLsbD (12 + (k - 12))
    else if k < 21 then imm.getLsbD (11 + (k - 20))
    else if k < 31 then imm.getLsbD (1 + (k - 21))
    else imm.getLsbD (20 + (k - 31)) := by
  rw [← encodeJ_getLsbD imm rd op hk, BitVec.getLsbD_eq_getElem hk]

/-! ### The fields of each layout, read back -/

@[simp] theorem encodeR_opcode (f7 : BitVec 7) (rs2 rs1 : RegIdx) (f3 : BitVec 3) (rd : RegIdx) (op : BitVec 7) :
    (encodeR f7 rs2 rs1 f3 rd op).extractLsb' 0 7 = op := by
  refine BitVec.eq_of_getLsbD_eq fun k hk => ?_
  rw [BitVec.getLsbD_extractLsb', encodeR_getLsbD _ _ _ _ _ _ (by omega)]
  interval_cases k <;> simp

@[simp] theorem encodeR_rd (f7 : BitVec 7) (rs2 rs1 : RegIdx) (f3 : BitVec 3) (rd : RegIdx) (op : BitVec 7) :
    (encodeR f7 rs2 rs1 f3 rd op).extractLsb' 7 5 = rd := by
  refine BitVec.eq_of_getLsbD_eq fun k hk => ?_
  rw [BitVec.getLsbD_extractLsb', encodeR_getLsbD _ _ _ _ _ _ (by omega)]
  interval_cases k <;> simp

@[simp] theorem encodeR_funct3 (f7 : BitVec 7) (rs2 rs1 : RegIdx) (f3 : BitVec 3) (rd : RegIdx) (op : BitVec 7) :
    (encodeR f7 rs2 rs1 f3 rd op).extractLsb' 12 3 = f3 := by
  refine BitVec.eq_of_getLsbD_eq fun k hk => ?_
  rw [BitVec.getLsbD_extractLsb', encodeR_getLsbD _ _ _ _ _ _ (by omega)]
  interval_cases k <;> simp

@[simp] theorem encodeR_rs1 (f7 : BitVec 7) (rs2 rs1 : RegIdx) (f3 : BitVec 3) (rd : RegIdx) (op : BitVec 7) :
    (encodeR f7 rs2 rs1 f3 rd op).extractLsb' 15 5 = rs1 := by
  refine BitVec.eq_of_getLsbD_eq fun k hk => ?_
  rw [BitVec.getLsbD_extractLsb', encodeR_getLsbD _ _ _ _ _ _ (by omega)]
  interval_cases k <;> simp

@[simp] theorem encodeR_rs2 (f7 : BitVec 7) (rs2 rs1 : RegIdx) (f3 : BitVec 3) (rd : RegIdx) (op : BitVec 7) :
    (encodeR f7 rs2 rs1 f3 rd op).extractLsb' 20 5 = rs2 := by
  refine BitVec.eq_of_getLsbD_eq fun k hk => ?_
  rw [BitVec.getLsbD_extractLsb', encodeR_getLsbD _ _ _ _ _ _ (by omega)]
  interval_cases k <;> simp

@[simp] theorem encodeR_funct7 (f7 : BitVec 7) (rs2 rs1 : RegIdx) (f3 : BitVec 3) (rd : RegIdx) (op : BitVec 7) :
    (encodeR f7 rs2 rs1 f3 rd op).extractLsb' 25 7 = f7 := by
  refine BitVec.eq_of_getLsbD_eq fun k hk => ?_
  rw [BitVec.getLsbD_extractLsb', encodeR_getLsbD _ _ _ _ _ _ (by omega)]
  interval_cases k <;> simp

@[simp] theorem encodeI_opcode (imm : Word) (rs1 : RegIdx) (f3 : BitVec 3) (rd : RegIdx) (op : BitVec 7) :
    (encodeI imm rs1 f3 rd op).extractLsb' 0 7 = op := by
  refine BitVec.eq_of_getLsbD_eq fun k hk => ?_
  rw [BitVec.getLsbD_extractLsb', encodeI_getLsbD _ _ _ _ _ (by omega)]
  interval_cases k <;> simp

@[simp] theorem encodeI_rd (imm : Word) (rs1 : RegIdx) (f3 : BitVec 3) (rd : RegIdx) (op : BitVec 7) :
    (encodeI imm rs1 f3 rd op).extractLsb' 7 5 = rd := by
  refine BitVec.eq_of_getLsbD_eq fun k hk => ?_
  rw [BitVec.getLsbD_extractLsb', encodeI_getLsbD _ _ _ _ _ (by omega)]
  interval_cases k <;> simp

@[simp] theorem encodeI_funct3 (imm : Word) (rs1 : RegIdx) (f3 : BitVec 3) (rd : RegIdx) (op : BitVec 7) :
    (encodeI imm rs1 f3 rd op).extractLsb' 12 3 = f3 := by
  refine BitVec.eq_of_getLsbD_eq fun k hk => ?_
  rw [BitVec.getLsbD_extractLsb', encodeI_getLsbD _ _ _ _ _ (by omega)]
  interval_cases k <;> simp

@[simp] theorem encodeI_rs1 (imm : Word) (rs1 : RegIdx) (f3 : BitVec 3) (rd : RegIdx) (op : BitVec 7) :
    (encodeI imm rs1 f3 rd op).extractLsb' 15 5 = rs1 := by
  refine BitVec.eq_of_getLsbD_eq fun k hk => ?_
  rw [BitVec.getLsbD_extractLsb', encodeI_getLsbD _ _ _ _ _ (by omega)]
  interval_cases k <;> simp

@[simp] theorem encodeI_funct7 (imm : Word) (rs1 : RegIdx) (f3 : BitVec 3) (rd : RegIdx) (op : BitVec 7) :
    (encodeI imm rs1 f3 rd op).extractLsb' 25 7 = funct7InImm imm := by
  rw [funct7InImm]
  refine BitVec.eq_of_getLsbD_eq fun k hk => ?_
  rw [BitVec.getLsbD_extractLsb', encodeI_getLsbD _ _ _ _ _ (by omega)]
  interval_cases k <;> simp

@[simp] theorem encodeS_opcode (imm : Word) (rs2 rs1 : RegIdx) (f3 : BitVec 3) (op : BitVec 7) :
    (encodeS imm rs2 rs1 f3 op).extractLsb' 0 7 = op := by
  refine BitVec.eq_of_getLsbD_eq fun k hk => ?_
  rw [BitVec.getLsbD_extractLsb', encodeS_getLsbD _ _ _ _ _ (by omega)]
  interval_cases k <;> simp

@[simp] theorem encodeS_funct3 (imm : Word) (rs2 rs1 : RegIdx) (f3 : BitVec 3) (op : BitVec 7) :
    (encodeS imm rs2 rs1 f3 op).extractLsb' 12 3 = f3 := by
  refine BitVec.eq_of_getLsbD_eq fun k hk => ?_
  rw [BitVec.getLsbD_extractLsb', encodeS_getLsbD _ _ _ _ _ (by omega)]
  interval_cases k <;> simp

@[simp] theorem encodeS_rs1 (imm : Word) (rs2 rs1 : RegIdx) (f3 : BitVec 3) (op : BitVec 7) :
    (encodeS imm rs2 rs1 f3 op).extractLsb' 15 5 = rs1 := by
  refine BitVec.eq_of_getLsbD_eq fun k hk => ?_
  rw [BitVec.getLsbD_extractLsb', encodeS_getLsbD _ _ _ _ _ (by omega)]
  interval_cases k <;> simp

@[simp] theorem encodeS_rs2 (imm : Word) (rs2 rs1 : RegIdx) (f3 : BitVec 3) (op : BitVec 7) :
    (encodeS imm rs2 rs1 f3 op).extractLsb' 20 5 = rs2 := by
  refine BitVec.eq_of_getLsbD_eq fun k hk => ?_
  rw [BitVec.getLsbD_extractLsb', encodeS_getLsbD _ _ _ _ _ (by omega)]
  interval_cases k <;> simp

@[simp] theorem encodeB_opcode (imm : Word) (rs2 rs1 : RegIdx) (f3 : BitVec 3) (op : BitVec 7) :
    (encodeB imm rs2 rs1 f3 op).extractLsb' 0 7 = op := by
  refine BitVec.eq_of_getLsbD_eq fun k hk => ?_
  rw [BitVec.getLsbD_extractLsb', encodeB_getLsbD _ _ _ _ _ (by omega)]
  interval_cases k <;> simp

@[simp] theorem encodeB_funct3 (imm : Word) (rs2 rs1 : RegIdx) (f3 : BitVec 3) (op : BitVec 7) :
    (encodeB imm rs2 rs1 f3 op).extractLsb' 12 3 = f3 := by
  refine BitVec.eq_of_getLsbD_eq fun k hk => ?_
  rw [BitVec.getLsbD_extractLsb', encodeB_getLsbD _ _ _ _ _ (by omega)]
  interval_cases k <;> simp

@[simp] theorem encodeB_rs1 (imm : Word) (rs2 rs1 : RegIdx) (f3 : BitVec 3) (op : BitVec 7) :
    (encodeB imm rs2 rs1 f3 op).extractLsb' 15 5 = rs1 := by
  refine BitVec.eq_of_getLsbD_eq fun k hk => ?_
  rw [BitVec.getLsbD_extractLsb', encodeB_getLsbD _ _ _ _ _ (by omega)]
  interval_cases k <;> simp

@[simp] theorem encodeB_rs2 (imm : Word) (rs2 rs1 : RegIdx) (f3 : BitVec 3) (op : BitVec 7) :
    (encodeB imm rs2 rs1 f3 op).extractLsb' 20 5 = rs2 := by
  refine BitVec.eq_of_getLsbD_eq fun k hk => ?_
  rw [BitVec.getLsbD_extractLsb', encodeB_getLsbD _ _ _ _ _ (by omega)]
  interval_cases k <;> simp

@[simp] theorem encodeU_opcode (imm : Word) (rd : RegIdx) (op : BitVec 7) :
    (encodeU imm rd op).extractLsb' 0 7 = op := by
  refine BitVec.eq_of_getLsbD_eq fun k hk => ?_
  rw [BitVec.getLsbD_extractLsb', encodeU_getLsbD _ _ _ (by omega)]
  interval_cases k <;> simp

@[simp] theorem encodeU_rd (imm : Word) (rd : RegIdx) (op : BitVec 7) :
    (encodeU imm rd op).extractLsb' 7 5 = rd := by
  refine BitVec.eq_of_getLsbD_eq fun k hk => ?_
  rw [BitVec.getLsbD_extractLsb', encodeU_getLsbD _ _ _ (by omega)]
  interval_cases k <;> simp

@[simp] theorem encodeJ_opcode (imm : Word) (rd : RegIdx) (op : BitVec 7) :
    (encodeJ imm rd op).extractLsb' 0 7 = op := by
  refine BitVec.eq_of_getLsbD_eq fun k hk => ?_
  rw [BitVec.getLsbD_extractLsb', encodeJ_getLsbD _ _ _ (by omega)]
  interval_cases k <;> simp

@[simp] theorem encodeJ_rd (imm : Word) (rd : RegIdx) (op : BitVec 7) :
    (encodeJ imm rd op).extractLsb' 7 5 = rd := by
  refine BitVec.eq_of_getLsbD_eq fun k hk => ?_
  rw [BitVec.getLsbD_extractLsb', encodeJ_getLsbD _ _ _ (by omega)]
  interval_cases k <;> simp

/-! ### The sentinel -/

/-- A word of no row resolves to the sentinel (30_encoding R67, 40_decoder R86). -/
theorem isUnknownWord_resolve {w : Word} (h : isUnknownWord w = true) : (decodeFields w).op = .unknown := by
  simp only [isUnknownWord, familyOpcodes, List.contains_cons, List.contains_nil, Bool.or_false, Bool.or_eq_true,
    Bool.and_eq_true, beq_iff_eq, Bool.not_eq_true'] at h
  simp only [decodeFields]
  generalize w.extractLsb' 0 7 = o at h ⊢
  generalize w.extractLsb' 12 3 = f at h ⊢
  unfold resolve
  split <;> simp_all [resolveBranch, resolveLoad, resolveStore]
  all_goals revert f; decide

end Sys2Proof
end

