-- ==== Sys2Proof/Laws/Memory.lean ====
section
/-! SUPPORT. The laws of memory: reading after writing, and that every memory operation keeps the canonical form. -/

namespace Sys2Proof.Machine

@[simp] theorem Memory.read_nil (a : Nat) : Memory.read [] a = Config.clearedByte := rfl

theorem Memory.wfFrom_cons {lo a : Nat} {v : Byte} {m : List Host.Cell} :
    Memory.wfFrom lo ((a, v) :: m) = true ↔ lo ≤ a ∧ v ≠ Config.clearedByte ∧ Memory.wfFrom (a + 1) m = true := by
  simp [Memory.wfFrom, and_assoc]

theorem Memory.wfFrom_mono {lo lo' : Nat} {m : List Host.Cell} (hle : lo' ≤ lo) (h : Memory.wfFrom lo m = true) :
    Memory.wfFrom lo' m = true := by
  cases m with
  | nil => rfl
  | cons c m =>
    obtain ⟨h1, h2, h3⟩ := Memory.wfFrom_cons.1 h
    exact Memory.wfFrom_cons.2 ⟨hle.trans h1, h2, h3⟩

/-- Below the first listed address every byte is the cleared byte. -/
theorem Memory.read_below_first {m : List Host.Cell} {lo a : Nat} (h : Memory.wfFrom lo m = true) (ha : a < lo) :
    Memory.read m a = Config.clearedByte := by
  induction m generalizing lo with
  | nil => rfl
  | cons c m ih =>
    obtain ⟨h1, -, h3⟩ := Memory.wfFrom_cons.1 h
    have hne : c.1 ≠ a := by omega
    simp only [Memory.read, hne, if_false]
    exact ih h3 (by omega)

/-- A write leaves every other byte alone, whatever the list. -/
theorem Memory.read_write_of_ne (m : List Host.Cell) {a b : Nat} (v : Byte) (h : b ≠ a) :
    Memory.read (Memory.write m a v) b = Memory.read m b := by
  have h' : ¬ a = b := fun e => h e.symm
  induction m with
  | nil => unfold Memory.write; split <;> simp [Memory.read, h']
  | cons c m ih =>
    obtain ⟨d, u⟩ := c
    unfold Memory.write
    split
    · split <;> simp [Memory.read, h']
    · split
      · next hd => subst hd; split <;> simp [Memory.read, h']
      · simp [Memory.read, ih]

/-- A write to a canonical memory is read back. -/
theorem Memory.read_write_same {m : List Host.Cell} {lo : Nat} (h : Memory.wfFrom lo m = true) (a : Nat) (v : Byte) :
    Memory.read (Memory.write m a v) a = v := by
  induction m generalizing lo with
  | nil => unfold Memory.write; split <;> simp_all [Memory.read]
  | cons c m ih =>
    obtain ⟨d, u⟩ := c
    obtain ⟨h1, h2, h3⟩ := Memory.wfFrom_cons.1 h
    unfold Memory.write
    split
    · next hlt =>
      split
      · next hv =>
        have hne : d ≠ a := by omega
        simp only [Memory.read, hne, if_false, hv]
        exact Memory.read_below_first h3 (by omega)
      · simp [Memory.read]
    · split
      · next hd =>
        subst hd
        split
        · next hv => rw [hv]; exact Memory.read_below_first h3 (by omega)
        · simp [Memory.read]
      · next hd => simp only [Memory.read, hd, if_false]; exact ih h3

/-- A write keeps the canonical form, whatever lower bound held of the addresses. -/
theorem Memory.wfFrom_write {m : List Host.Cell} {lo : Nat} (h : Memory.wfFrom lo m = true) (a : Nat) (v : Byte) :
    Memory.wfFrom (min lo a) (Memory.write m a v) = true := by
  induction m generalizing lo with
  | nil =>
    unfold Memory.write
    split
    · rfl
    · next hv => exact Memory.wfFrom_cons.2 ⟨by omega, hv, rfl⟩
  | cons c m ih =>
    obtain ⟨d, u⟩ := c
    obtain ⟨h1, h2, h3⟩ := Memory.wfFrom_cons.1 h
    unfold Memory.write
    split
    · next hlt =>
      split
      · exact Memory.wfFrom_mono (by omega) h
      · next hv =>
        exact Memory.wfFrom_cons.2 ⟨by omega, hv, Memory.wfFrom_cons.2 ⟨by omega, h2, h3⟩⟩
    · split
      · next hd =>
        subst hd
        split
        · exact Memory.wfFrom_mono (by omega) h3
        · next hv => exact Memory.wfFrom_cons.2 ⟨by omega, hv, h3⟩
      · next hlt hd =>
        refine Memory.wfFrom_cons.2 ⟨by omega, h2, ?_⟩
        exact Memory.wfFrom_mono (by omega) (ih h3)

theorem Memory.wf_write {m : List Host.Cell} (h : Memory.wf m = true) (a : Nat) (v : Byte) :
    Memory.wf (Memory.write m a v) = true :=
  Memory.wfFrom_mono (Nat.zero_le _) (Memory.wfFrom_write h a v)

theorem Memory.wf_writeBytes {m : List Host.Cell} (h : Memory.wf m = true) (a : Nat) (bs : List Byte) :
    Memory.wf (Memory.writeBytes m a bs) = true := by
  induction bs generalizing m a with
  | nil => exact h
  | cons b bs ih => exact ih (Memory.wf_write h a b) (a + 1)

/-- A cell listed after a write was listed before, or is the one written. -/
theorem Memory.mem_write {m : List Host.Cell} {a : Nat} {v : Byte} {c : Host.Cell} (h : c ∈ Memory.write m a v) :
    c ∈ m ∨ c = (a, v) := by
  induction m with
  | nil =>
    unfold Memory.write at h
    split at h
    · exact .inl h
    · exact .inr (List.mem_singleton.1 h)
  | cons d m ih =>
    unfold Memory.write at h
    split at h
    · split at h
      · exact .inl h
      · exact (List.mem_cons.1 h).elim .inr .inl
    · split at h
      · split at h
        · exact .inl (List.mem_cons_of_mem _ h)
        · exact (List.mem_cons.1 h).elim .inr fun h => .inl (List.mem_cons_of_mem _ h)
      · rcases List.mem_cons.1 h with h | h
        · exact .inl (h ▸ List.mem_cons_self)
        · exact (ih h).imp (List.mem_cons_of_mem _) id

theorem Memory.below_iff {m : List Host.Cell} {size : Nat} :
    Memory.below m size = true ↔ ∀ c ∈ m, c.1 < size := by
  simp [Memory.below]

theorem Memory.below_write {m : List Host.Cell} {size a : Nat} (h : Memory.below m size = true) (ha : a < size)
    (v : Byte) : Memory.below (Memory.write m a v) size = true :=
  Memory.below_iff.2 fun c hc => (Memory.mem_write hc).elim (Memory.below_iff.1 h c) fun e => e ▸ ha

theorem Memory.below_writeBytes {m : List Host.Cell} {size a : Nat} {bs : List Byte}
    (h : Memory.below m size = true) (ha : a + bs.length ≤ size) :
    Memory.below (Memory.writeBytes m a bs) size = true := by
  induction bs generalizing m a with
  | nil => exact h
  | cons b bs ih =>
    simp only [List.length_cons] at ha
    exact ih (Memory.below_write h (by omega) b) (by omega)

/-- Writing bytes leaves every byte outside them alone. -/
theorem Memory.read_writeBytes_outside (m : List Host.Cell) {a b : Nat} (bs : List Byte)
    (h : b < a ∨ a + bs.length ≤ b) : Memory.read (Memory.writeBytes m a bs) b = Memory.read m b := by
  induction bs generalizing m a with
  | nil => rfl
  | cons c bs ih =>
    simp only [List.length_cons] at h
    rw [Memory.writeBytes, ih _ (by omega), Memory.read_write_of_ne _ _ (by omega)]

/-- Writing bytes to a canonical memory: byte `k` of them is read back at `a + k`. -/
theorem Memory.read_writeBytes_inside {m : List Host.Cell} (hm : Memory.wf m = true) (a : Nat) (bs : List Byte)
    {k : Nat} (hk : k < bs.length) : Memory.read (Memory.writeBytes m a bs) (a + k) = bs[k] := by
  induction bs generalizing m a k with
  | nil => simp at hk
  | cons c bs ih =>
    rw [Memory.writeBytes]
    cases k with
    | zero =>
      rw [Memory.read_writeBytes_outside _ _ (by omega)]
      exact Memory.read_write_same hm a c
    | succ k =>
      have := ih (Memory.wf_write hm a c) (a + 1) (k := k) (by simpa using hk)
      simpa [Nat.add_assoc, Nat.add_comm 1 k] using this

/-- The bytes read are the bytes of the addresses, in order. -/
theorem Memory.readBytes_length (m : List Host.Cell) (a n : Nat) : (Memory.readBytes m a n).length = n := by
  induction n generalizing a with
  | zero => rfl
  | succ n ih => simp [Memory.readBytes, ih]

@[simp] theorem lowBytes_length (v : Word) (n : Nat) : (lowBytes v n).length = n := by simp [lowBytes]

theorem lowBytes_getElem (v : Word) {n k : Nat} (h : k < (lowBytes v n).length) :
    (lowBytes v n)[k] = v.extractLsb' (8 * k) 8 := by
  simp [lowBytes, byteOf]

/-- The memory of the reset state has the canonical form. -/
theorem State.resetWith_mem_wf (n : Nat) : Memory.wf (State.resetWith n).mem = true := rfl

/-- A store through the access primitive keeps the canonical form and stays inside the memory. -/
theorem State.memWrite_mem_wf {s t : State} {addr v : Word} {n : Nat} (h : s.memWrite addr n v = some t)
    (hm : Memory.wf s.mem = true) : Memory.wf t.mem = true := by
  unfold State.memWrite at h
  split at h
  · cases h; exact Memory.wf_writeBytes hm _ _
  · cases h

/-- Placing an instruction word keeps the canonical form: it is one memory write or nothing. -/
theorem State.memWrite_getD_mem_wf {s : State} (hm : Memory.wf s.mem = true) (addr v : Word) (n : Nat) :
    Memory.wf ((s.memWrite addr n v).getD s).mem = true := by
  cases h : s.memWrite addr n v with
  | none => exact hm
  | some t => exact State.memWrite_mem_wf h hm

end Sys2Proof.Machine
end

