-- ==== Sys2Proof/Laws/State.lean ====
section
/-! SUPPORT. One lemma per field and update of State, and the laws of the register accessors. -/

namespace Sys2Proof.Machine

/-! ### Fields after an update -/

@[simp] theorem State.goto_regs (s : State) (t : Word) : (s.goto t).regs = s.regs := rfl
@[simp] theorem State.goto_pc (s : State) (t : Word) : (s.goto t).pc = t := rfl
@[simp] theorem State.goto_mem (s : State) (t : Word) : (s.goto t).mem = s.mem := rfl
@[simp] theorem State.goto_running (s : State) (t : Word) : (s.goto t).running = s.running := rfl
@[simp] theorem State.goto_faulted (s : State) (t : Word) : (s.goto t).faulted = s.faulted := rfl
@[simp] theorem State.goto_memSize (s : State) (t : Word) : (s.goto t).memSize = s.memSize := rfl

@[simp] theorem State.halt_regs (s : State) : s.halt.regs = s.regs := rfl
@[simp] theorem State.halt_pc (s : State) : s.halt.pc = s.pc := rfl
@[simp] theorem State.halt_mem (s : State) : s.halt.mem = s.mem := rfl
@[simp] theorem State.halt_running (s : State) : s.halt.running = false := rfl
@[simp] theorem State.halt_faulted (s : State) : s.halt.faulted = s.faulted := rfl
@[simp] theorem State.halt_memSize (s : State) : s.halt.memSize = s.memSize := rfl

@[simp] theorem State.setReg_pc (s : State) (r : RegIdx) (v : Word) : (s.setReg r v).pc = s.pc := by
  unfold State.setReg; split <;> rfl
@[simp] theorem State.setReg_mem (s : State) (r : RegIdx) (v : Word) : (s.setReg r v).mem = s.mem := by
  unfold State.setReg; split <;> rfl
@[simp] theorem State.setReg_running (s : State) (r : RegIdx) (v : Word) : (s.setReg r v).running = s.running := by
  unfold State.setReg; split <;> rfl
@[simp] theorem State.setReg_faulted (s : State) (r : RegIdx) (v : Word) : (s.setReg r v).faulted = s.faulted := by
  unfold State.setReg; split <;> rfl
@[simp] theorem State.setReg_memSize (s : State) (r : RegIdx) (v : Word) : (s.setReg r v).memSize = s.memSize := by
  unfold State.setReg; split <;> rfl

@[simp] theorem State.writeBack_pc (s : State) (r : RegIdx) (v p : Word) : (s.writeBack r v p).pc = p := rfl
@[simp] theorem State.writeBack_mem (s : State) (r : RegIdx) (v p : Word) : (s.writeBack r v p).mem = s.mem := by
  simp [State.writeBack]
@[simp] theorem State.writeBack_running (s : State) (r : RegIdx) (v p : Word) :
    (s.writeBack r v p).running = s.running := by simp [State.writeBack]
@[simp] theorem State.writeBack_faulted (s : State) (r : RegIdx) (v p : Word) :
    (s.writeBack r v p).faulted = s.faulted := by simp [State.writeBack]
@[simp] theorem State.writeBack_memSize (s : State) (r : RegIdx) (v p : Word) :
    (s.writeBack r v p).memSize = s.memSize := by simp [State.writeBack]

/-! ### Registers -/

/-- The register read depends on the register file alone. -/
theorem State.reg_congr {s t : State} (h : t.regs = s.regs) (r : RegIdx) : t.reg r = s.reg r := by
  simp [State.reg, h]

@[simp] theorem State.reg_zero (s : State) : s.reg 0#5 = 0#32 := by simp [State.reg]

@[simp] theorem State.reg_goto (s : State) (t : Word) (r : RegIdx) : (s.goto t).reg r = s.reg r :=
  State.reg_congr rfl r

@[simp] theorem State.reg_halt (s : State) (r : RegIdx) : s.halt.reg r = s.reg r :=
  State.reg_congr rfl r

/-- The register just written reads as the value, but for `x[0]`, which reads as zero (10_state R12, R13). -/
theorem State.reg_setReg_same (s : State) (r : RegIdx) (v : Word) :
    (s.setReg r v).reg r = if r = 0#5 then 0#32 else v := by
  by_cases h : r = 0#5 <;> simp [State.setReg, State.reg, h]

/-- Every other register is unchanged. -/
theorem State.reg_setReg_of_ne (s : State) {r q : RegIdx} (v : Word) (h : q ≠ r) :
    (s.setReg r v).reg q = s.reg q := by
  by_cases hr : r = 0#5
  · simp [State.setReg, hr]
  · have hne : r.toNat ≠ q.toNat := fun e => h (BitVec.eq_of_toNat_eq e.symm)
    simp [State.setReg, State.reg, hr, hne]

@[simp] theorem State.reg_writeBack_same (s : State) (r : RegIdx) (v p : Word) :
    (s.writeBack r v p).reg r = if r = 0#5 then 0#32 else v := by
  simp [State.writeBack, State.reg_setReg_same]

theorem State.reg_writeBack_of_ne (s : State) {r q : RegIdx} (v p : Word) (h : q ≠ r) :
    (s.writeBack r v p).reg q = s.reg q := by
  simp [State.writeBack, State.reg_setReg_of_ne s v h]

/-- The storage slot of `x[0]` is never written. -/
@[simp] theorem State.setReg_slot0 (s : State) (r : RegIdx) (v : Word) : (s.setReg r v).regs[0] = s.regs[0] := by
  by_cases hr : r = 0#5
  · simp [State.setReg, hr]
  · have hne : r.toNat ≠ 0 := fun e => hr (BitVec.eq_of_toNat_eq (by simpa using e))
    simp [State.setReg, hr, hne]

@[simp] theorem State.writeBack_slot0 (s : State) (r : RegIdx) (v p : Word) :
    (s.writeBack r v p).regs[0] = s.regs[0] := by
  simp [State.writeBack]

end Sys2Proof.Machine
end

