-- ==== Sys2Proof/Laws/Ops.lean ====
section
/-! SUPPORT. What each shared operation can do, said once: the register write-back, the access primitives, the ends of
loads and stores, the MemoryFault, and the step. -/

namespace Sys2Proof.Machine

/-! ### Write-back and goto -/

theorem writeBack_regEffect (s : State) (rd : RegIdx) (v p : Word) : RegEffect s (s.writeBack rd v p) rd v p where
  regs := ⟨State.reg_writeBack_same s rd v p, fun _ h => State.reg_writeBack_of_ne s v p h⟩
  pc := rfl
  frame := ⟨fun _ => by simp, by simp, by simp, by simp⟩

theorem goto_pcEffect (s : State) (p : Word) : PcEffect s (s.goto p) p where
  regs := fun _ => by simp
  pc := rfl
  frame := ⟨fun _ => rfl, rfl, rfl, rfl⟩

/-! ### The shared meanings -/

/-- A register-register operation always answers the write-back of the ALU's result. -/
theorem aluRegReg_eq (f : AluOp) (rd rs1 rs2 : RegIdx) (s : State) :
    aluRegReg f rd rs1 rs2 s = .next (s.writeBack rd (alu f (s.reg rs1) (s.reg rs2)) (s.pc + 4#32)) := rfl

/-- A register-immediate operation always answers the write-back of the ALU's result. -/
theorem aluRegImm_eq (f : AluOp) (rd rs1 : RegIdx) (imm : Word) (s : State) :
    aluRegImm f rd rs1 imm s = .next (s.writeBack rd (alu f (s.reg rs1) imm) (s.pc + 4#32)) := rfl

/-- A branch always answers the state at its target or at the default next pc. -/
theorem branch_eq (taken : Bool) (imm : Word) (s : State) :
    branch taken imm s = .next (s.goto (if taken then s.pc + imm else s.pc + 4#32)) := rfl

/-! ### Access primitives -/

theorem State.inBounds_iff {s : State} {addr : Word} {n : Nat} :
    s.inBounds addr n = true ↔ addr.toNat + n ≤ s.memSize := by
  simp [State.inBounds]

theorem State.memRead8_of_inBounds {s : State} {addr : Word} (h : addr.toNat + 1 ≤ s.memSize) :
    s.memRead8 addr = some (Memory.read s.mem addr.toNat) := by
  simp [State.memRead8, State.inBounds_iff.2 h]

theorem State.memRead16_of_inBounds {s : State} {addr : Word} (h : addr.toNat + 2 ≤ s.memSize) :
    s.memRead16 addr = some (Memory.read16 s.mem addr.toNat) := by
  simp [State.memRead16, State.inBounds_iff.2 h]

theorem State.memRead32_of_inBounds {s : State} {addr : Word} (h : addr.toNat + 4 ≤ s.memSize) :
    s.memRead32 addr = some (Memory.read32 s.mem addr.toNat) := by
  simp [State.memRead32, State.inBounds_iff.2 h]

theorem State.memRead8_of_outside {s : State} {addr : Word} (h : s.memSize < addr.toNat + 1) :
    s.memRead8 addr = none := by
  simp [State.memRead8, State.inBounds]; omega

theorem State.memRead16_of_outside {s : State} {addr : Word} (h : s.memSize < addr.toNat + 2) :
    s.memRead16 addr = none := by
  simp [State.memRead16, State.inBounds]; omega

theorem State.memRead32_of_outside {s : State} {addr : Word} (h : s.memSize < addr.toNat + 4) :
    s.memRead32 addr = none := by
  simp [State.memRead32, State.inBounds]; omega

theorem State.memWrite_of_inBounds {s : State} {addr : Word} {n : Nat} (h : addr.toNat + n ≤ s.memSize) (v : Word) :
    s.memWrite addr n v = some { s with mem := Memory.writeBytes s.mem addr.toNat (lowBytes v n) } := by
  simp [State.memWrite, State.inBounds_iff.2 h]

theorem State.memWrite_of_outside {s : State} {addr : Word} {n : Nat} (h : s.memSize < addr.toNat + n) (v : Word) :
    s.memWrite addr n v = none := by
  simp [State.memWrite, State.inBounds]; omega

/-! ### The ends of loads and stores -/

/-- A load that answers a next state had a value, and the state is its write-back. -/
theorem completeLoad_next {s t : State} {rd : RegIdx} {ea : Word} {value : Option Word}
    (h : completeLoad s rd ea value = .next t) : ∃ v, value = some v ∧ t = s.writeBack rd v s.nextPc := by
  cases value with
  | none => simp [completeLoad, raiseMemoryFault] at h
  | some v => exact ⟨v, rfl, by simpa [completeLoad] using h.symm⟩

/-- A load that does not answer a next state had no value, and raised MemoryFault at its address. -/
theorem completeLoad_cases (s : State) (rd : RegIdx) (ea : Word) (value : Option Word) :
    (∃ v, value = some v ∧ completeLoad s rd ea value = .next (s.writeBack rd v s.nextPc)) ∨
      (value = none ∧ completeLoad s rd ea value = raiseMemoryFault s ea) := by
  cases value with
  | none => exact .inr ⟨rfl, rfl⟩
  | some v => exact .inl ⟨v, rfl, rfl⟩

/-- A store that does not answer a next state had nothing written, and raised MemoryFault at its address. -/
theorem completeStore_cases (s : State) (ea : Word) (written : Option State) :
    (∃ u, written = some u ∧ completeStore s ea written = .next (u.goto s.nextPc)) ∨
      (written = none ∧ completeStore s ea written = raiseMemoryFault s ea) := by
  cases written with
  | none => exact .inr ⟨rfl, rfl⟩
  | some u => exact .inl ⟨u, rfl, rfl⟩

/-- Everything a write through the access primitive did: it was inside the memory and changed the memory alone. -/
theorem State.memWrite_some {s t : State} {addr v : Word} {n : Nat} (h : s.memWrite addr n v = some t) :
    addr.toNat + n ≤ s.memSize ∧ t = { s with mem := Memory.writeBytes s.mem addr.toNat (lowBytes v n) } := by
  unfold State.memWrite at h
  split at h
  · next hb => exact ⟨State.inBounds_iff.1 hb, (Option.some.inj h).symm⟩
  · cases h

/-- A store that answers a next state had its bytes written. -/
theorem completeStore_next {s t : State} {ea : Word} {written : Option State}
    (h : completeStore s ea written = .next t) : ∃ u, written = some u ∧ t = u.goto s.nextPc := by
  cases written with
  | none => simp [completeStore, raiseMemoryFault] at h
  | some u => exact ⟨u, rfl, by simpa [completeStore] using h.symm⟩

theorem completeStore_storeEffect {s : State} (hm : Memory.wf s.mem = true) (ea v : Word) (n : Nat) :
    StoreEffect s (({ s with mem := Memory.writeBytes s.mem ea.toNat (lowBytes v n) } : State).goto s.nextPc)
      ea n v s.nextPc where
  stored k hk := by
    have := Memory.read_writeBytes_inside hm ea.toNat (lowBytes v n) (k := k) (by simpa using hk)
    simpa [lowBytes_getElem] using this
  outside a ha := by
    simpa using Memory.read_writeBytes_outside s.mem (lowBytes v n) (a := ea.toNat) (b := a) (by simpa using ha)
  regs r := State.reg_congr rfl r
  pc := rfl
  running := rfl
  faulted := rfl
  memSize := rfl

/-! ### MemoryFault -/

@[simp] theorem raiseMemoryFault_eq (s : State) (addr : Word) :
    raiseMemoryFault s addr = .fault (.memoryFault s.pc addr { s with faulted := true }) := rfl

/-! ### The step -/

/-- With the enable off no step is taken. -/
theorem step_of_disabled {s : State} (h : s.enabled = false) : step s = .fault (.noStep s) := by
  simp [step, h]

/-- With the enable on and the pc inside the memory, the decoded word is executed. -/
theorem step_of_fetch {s : State} {w : Word} (h : s.enabled = true) (hw : s.fetch = some w) :
    step s = exec (decode w) s := by
  simp [step, h, hw]

/-- With the enable on and the pc outside the memory, the fetch faults. -/
theorem step_of_fetch_none {s : State} (h : s.enabled = true) (hw : s.fetch = none) :
    step s = raiseMemoryFault s s.pc := by
  simp [step, h, hw]

/-- Everything a step that answers a next state did: it was enabled, it fetched a word, it executed it. -/
theorem step_next {s t : State} (h : step s = .next t) :
    s.enabled = true ∧ ∃ w, s.fetch = some w ∧ exec (decode w) s = .next t := by
  unfold step at h
  split at h
  · next he =>
    cases hw : s.fetch with
    | none => simp [hw] at h
    | some w => exact ⟨he, w, rfl, by simpa [hw] using h⟩
  · simp at h

end Sys2Proof.Machine
end

