-- ==== Sys2Proof/Laws/PerInstr.lean ====
section
/-! SUPPORT. Statements made of every instruction as a term of its own, one lemma per constructor.

EncodedOp: the word of a well-formed instruction resolves to the instruction's own operation (30_encoding R68). -/

namespace Sys2Proof.Laws.EncodedOp

/-- The word of a well-formed instruction resolves to its operation. -/
def Statement (i : Instr) : Prop := i.wellFormed = true → (decodeFields (encode i)).op = i.op

theorem lui (rd : RegIdx) (imm : Word) : Statement (.lui rd imm) := fun _ => by
  simp [encode, Instr.op, decodeFields, resolve]

theorem auipc (rd : RegIdx) (imm : Word) : Statement (.auipc rd imm) := fun _ => by
  simp [encode, Instr.op, decodeFields, resolve]

theorem jal (rd : RegIdx) (imm : Word) : Statement (.jal rd imm) := fun _ => by
  simp [encode, Instr.op, decodeFields, resolve]

theorem jalr (rd : RegIdx) (rs1 : RegIdx) (imm : Word) : Statement (.jalr rd rs1 imm) := fun _ => by
  simp [encode, Instr.op, decodeFields, resolve]

theorem beq (rs1 : RegIdx) (rs2 : RegIdx) (imm : Word) : Statement (.beq rs1 rs2 imm) := fun _ => by
  simp [encode, Instr.op, decodeFields, resolve, resolveBranch]

theorem bne (rs1 : RegIdx) (rs2 : RegIdx) (imm : Word) : Statement (.bne rs1 rs2 imm) := fun _ => by
  simp [encode, Instr.op, decodeFields, resolve, resolveBranch]

theorem blt (rs1 : RegIdx) (rs2 : RegIdx) (imm : Word) : Statement (.blt rs1 rs2 imm) := fun _ => by
  simp [encode, Instr.op, decodeFields, resolve, resolveBranch]

theorem bge (rs1 : RegIdx) (rs2 : RegIdx) (imm : Word) : Statement (.bge rs1 rs2 imm) := fun _ => by
  simp [encode, Instr.op, decodeFields, resolve, resolveBranch]

theorem bltu (rs1 : RegIdx) (rs2 : RegIdx) (imm : Word) : Statement (.bltu rs1 rs2 imm) := fun _ => by
  simp [encode, Instr.op, decodeFields, resolve, resolveBranch]

theorem bgeu (rs1 : RegIdx) (rs2 : RegIdx) (imm : Word) : Statement (.bgeu rs1 rs2 imm) := fun _ => by
  simp [encode, Instr.op, decodeFields, resolve, resolveBranch]

theorem lb (rd : RegIdx) (rs1 : RegIdx) (imm : Word) : Statement (.lb rd rs1 imm) := fun _ => by
  simp [encode, Instr.op, decodeFields, resolve, resolveLoad]

theorem lh (rd : RegIdx) (rs1 : RegIdx) (imm : Word) : Statement (.lh rd rs1 imm) := fun _ => by
  simp [encode, Instr.op, decodeFields, resolve, resolveLoad]

theorem lw (rd : RegIdx) (rs1 : RegIdx) (imm : Word) : Statement (.lw rd rs1 imm) := fun _ => by
  simp [encode, Instr.op, decodeFields, resolve, resolveLoad]

theorem lbu (rd : RegIdx) (rs1 : RegIdx) (imm : Word) : Statement (.lbu rd rs1 imm) := fun _ => by
  simp [encode, Instr.op, decodeFields, resolve, resolveLoad]

theorem lhu (rd : RegIdx) (rs1 : RegIdx) (imm : Word) : Statement (.lhu rd rs1 imm) := fun _ => by
  simp [encode, Instr.op, decodeFields, resolve, resolveLoad]

theorem sb (rs1 : RegIdx) (rs2 : RegIdx) (imm : Word) : Statement (.sb rs1 rs2 imm) := fun _ => by
  simp [encode, Instr.op, decodeFields, resolve, resolveStore]

theorem sh (rs1 : RegIdx) (rs2 : RegIdx) (imm : Word) : Statement (.sh rs1 rs2 imm) := fun _ => by
  simp [encode, Instr.op, decodeFields, resolve, resolveStore]

theorem sw (rs1 : RegIdx) (rs2 : RegIdx) (imm : Word) : Statement (.sw rs1 rs2 imm) := fun _ => by
  simp [encode, Instr.op, decodeFields, resolve, resolveStore]

theorem addi (rd : RegIdx) (rs1 : RegIdx) (imm : Word) : Statement (.addi rd rs1 imm) := fun _ => by
  simp [encode, Instr.op, decodeFields, resolve, resolveRegImm]

theorem slti (rd : RegIdx) (rs1 : RegIdx) (imm : Word) : Statement (.slti rd rs1 imm) := fun _ => by
  simp [encode, Instr.op, decodeFields, resolve, resolveRegImm]

theorem sltiu (rd : RegIdx) (rs1 : RegIdx) (imm : Word) : Statement (.sltiu rd rs1 imm) := fun _ => by
  simp [encode, Instr.op, decodeFields, resolve, resolveRegImm]

theorem xori (rd : RegIdx) (rs1 : RegIdx) (imm : Word) : Statement (.xori rd rs1 imm) := fun _ => by
  simp [encode, Instr.op, decodeFields, resolve, resolveRegImm]

theorem ori (rd : RegIdx) (rs1 : RegIdx) (imm : Word) : Statement (.ori rd rs1 imm) := fun _ => by
  simp [encode, Instr.op, decodeFields, resolve, resolveRegImm]

theorem andi (rd : RegIdx) (rs1 : RegIdx) (imm : Word) : Statement (.andi rd rs1 imm) := fun _ => by
  simp [encode, Instr.op, decodeFields, resolve, resolveRegImm]

theorem slli (rd : RegIdx) (rs1 : RegIdx) (imm : Word) : Statement (.slli rd rs1 imm) := fun _ => by
  simp [encode, Instr.op, decodeFields, resolve, resolveRegImm]

theorem srli (rd : RegIdx) (rs1 : RegIdx) (imm : Word) : Statement (.srli rd rs1 imm) := fun h => by
  have hw : fitsSext12 imm = true ∧ funct7InImm imm = 0#7 := by simpa [Instr.wellFormed] using h
  simp [encode, Instr.op, decodeFields, resolve, resolveRegImm, hw.2]

theorem srai (rd : RegIdx) (rs1 : RegIdx) (imm : Word) : Statement (.srai rd rs1 imm) := fun h => by
  have hw : fitsSext12 imm = true ∧ funct7InImm imm ≠ 0#7 := by simpa [Instr.wellFormed] using h
  simp [encode, Instr.op, decodeFields, resolve, resolveRegImm, hw.2]

theorem add (rd : RegIdx) (rs1 : RegIdx) (rs2 : RegIdx) : Statement (.add rd rs1 rs2) := fun _ => by
  simp [encode, Instr.op, decodeFields, resolve, resolveRegReg]

theorem sub (rd : RegIdx) (rs1 : RegIdx) (rs2 : RegIdx) : Statement (.sub rd rs1 rs2) := fun _ => by
  simp [encode, Instr.op, decodeFields, resolve, resolveRegReg]

theorem sll (rd : RegIdx) (rs1 : RegIdx) (rs2 : RegIdx) : Statement (.sll rd rs1 rs2) := fun _ => by
  simp [encode, Instr.op, decodeFields, resolve, resolveRegReg]

theorem slt (rd : RegIdx) (rs1 : RegIdx) (rs2 : RegIdx) : Statement (.slt rd rs1 rs2) := fun _ => by
  simp [encode, Instr.op, decodeFields, resolve, resolveRegReg]

theorem sltu (rd : RegIdx) (rs1 : RegIdx) (rs2 : RegIdx) : Statement (.sltu rd rs1 rs2) := fun _ => by
  simp [encode, Instr.op, decodeFields, resolve, resolveRegReg]

theorem xor (rd : RegIdx) (rs1 : RegIdx) (rs2 : RegIdx) : Statement (.xor rd rs1 rs2) := fun _ => by
  simp [encode, Instr.op, decodeFields, resolve, resolveRegReg]

theorem srl (rd : RegIdx) (rs1 : RegIdx) (rs2 : RegIdx) : Statement (.srl rd rs1 rs2) := fun _ => by
  simp [encode, Instr.op, decodeFields, resolve, resolveRegReg]

theorem sra (rd : RegIdx) (rs1 : RegIdx) (rs2 : RegIdx) : Statement (.sra rd rs1 rs2) := fun _ => by
  simp [encode, Instr.op, decodeFields, resolve, resolveRegReg]

theorem or (rd : RegIdx) (rs1 : RegIdx) (rs2 : RegIdx) : Statement (.or rd rs1 rs2) := fun _ => by
  simp [encode, Instr.op, decodeFields, resolve, resolveRegReg]

theorem and (rd : RegIdx) (rs1 : RegIdx) (rs2 : RegIdx) : Statement (.and rd rs1 rs2) := fun _ => by
  simp [encode, Instr.op, decodeFields, resolve, resolveRegReg]

theorem ecall : Statement (.ecall) := fun _ => by decide

theorem unknown (w : Word) : Statement (.unknown w) := fun h => isUnknownWord_resolve h

end Sys2Proof.Laws.EncodedOp
end

