-- ==== Sys2Proof/Tests/Slice0.lean ====
section
/-! SUPPORT. The model's own tests: expected values come from the tables of spec/95_test_vectors.md (their numbers stand
beside each test) or by hand from the rules named; and a witness for the hypotheses of every obligation. -/

namespace Sys2Proof.Tests

open Sys2Proof Sys2Proof.Machine

/-! ### WellFormed refuses an ill-formed term, one for each check -/

-- 30_encoding R54: 2048 is no 12-bit signed value
theorem test_wf_refuses_i_range : (Instr.addi 1 2 0x00000800).wellFormed = false := by decide
theorem test_wf_refuses_i_range_jalr : (Instr.jalr 1 2 0x00001000).wellFormed = false := by decide
-- R55: -2049
theorem test_wf_refuses_s_range : (Instr.sw 1 2 0xFFFFF7FF).wellFormed = false := by decide
-- R56: 4096, and an odd offset
theorem test_wf_refuses_b_range : (Instr.beq 1 2 0x00001000).wellFormed = false := by decide
theorem test_wf_refuses_b_odd : (Instr.bgeu 1 2 0x00000003).wellFormed = false := by decide
-- R57: a low bit set
theorem test_wf_refuses_u_low_bits : (Instr.lui 1 0x00001001).wellFormed = false := by decide
-- R58: 1048576, and an odd offset
theorem test_wf_refuses_j_range : (Instr.jal 1 0x00100000).wellFormed = false := by decide
theorem test_wf_refuses_j_odd : (Instr.jal 1 0x00000001).wellFormed = false := by decide
-- R64: SRLI has funct7 = 0, SRAI a nonzero one
theorem test_wf_refuses_srli_funct7 : (Instr.srli 1 2 0x00000405).wellFormed = false := by decide
theorem test_wf_refuses_srai_funct7 : (Instr.srai 1 2 0x00000005).wellFormed = false := by decide
-- R67: a word that some row names
theorem test_wf_refuses_named_word : (Instr.unknown 0x00000013).wellFormed = false := by decide

/-! ### Decoding: words of spec/95_test_vectors part 1.1, 1.2 and 2.1, and of 40_decoder section 4 -/

-- S-IMM-1 to S-IMM-6
theorem test_immediates :
    immB 0xC6318C63 = 0xFFFFF478 ∧ immI 0xC6318C63 = 0xFFFFFC63 ∧ immJ 0xC6318C63 = 0xFFF18C62 ∧
    immU 0xC6318C63 = 0xC6318000 ∧ immS 0xC6318C63 = 0xFFFFFC78 ∧
    immB 0 = 0 ∧ immI 0 = 0 ∧ immJ 0 = 0 ∧ immU 0 = 0 ∧ immS 0 = 0 := by decide

-- S-OP-1 to S-OP-6
theorem test_source_opcodes :
    decode 0x0000006F = .jal 0 0 ∧ decode 0x00000063 = .beq 0 0 0 ∧ decode 0x00001063 = .bne 0 0 0 ∧
    decode 0x00000073 = .ecall ∧ decode 0x40000033 = .sub 0 0 0 ∧ decode 0x00000033 = .add 0 0 0 := by decide

-- V-DEC-1 to V-DEC-10
theorem test_decode_vectors_a :
    decode 0xC6318C63 = .beq 3 3 0xFFFFF478 ∧
    decode 0xC6318C03 = .lb 24 3 0xFFFFFC63 ∧
    decode 0xC6318C23 = .sb 3 3 0xFFFFFC78 ∧
    decode 0xC6318C37 = .lui 24 0xC6318000 ∧
    decode 0xC6318C6F = .jal 24 0xFFF18C62 ∧
    decode 0xC6318C67 = .jalr 24 3 0xFFFFFC63 ∧
    decode 0xC6318C13 = .addi 24 3 0xFFFFFC63 ∧
    decode 0xC6318C17 = .auipc 24 0xC6318000 ∧
    decode 0xC6318C33 = .sub 24 3 3 ∧
    decode 0xC6318C73 = .ecall := by decide
-- V-DEC-11 to V-DEC-20
theorem test_decode_vectors_b :
    decode 0x00000000 = .unknown 0x00000000 ∧
    decode 0xFFFFFFFF = .unknown 0xFFFFFFFF ∧
    decode 0x7FF00093 = .addi 1 0 0x000007FF ∧
    decode 0x80000093 = .addi 1 0 0xFFFFF800 ∧
    decode 0x7E000FE3 = .beq 0 0 0x00000FFE ∧
    decode 0x80000063 = .beq 0 0 0xFFFFF000 ∧
    decode 0x7FFFF06F = .jal 0 0x000FFFFE ∧
    decode 0x8000006F = .jal 0 0xFFF00000 ∧
    decode 0xFE20AFA3 = .sw 1 2 0xFFFFFFFF ∧
    decode 0x002081B3 = .add 3 1 2 := by decide
-- V-DEC-21 to V-DEC-30
theorem test_decode_vectors_c :
    decode 0x402081B3 = .sub 3 1 2 ∧
    decode 0x022081B3 = .sub 3 1 2 ∧
    decode 0x802081B3 = .sub 3 1 2 ∧
    decode 0x0020D1B3 = .srl 3 1 2 ∧
    decode 0x0220D1B3 = .sra 3 1 2 ∧
    decode 0x0050D193 = .srli 3 1 0x00000005 ∧
    decode 0x4050D193 = .srai 3 1 0x00000405 ∧
    decode 0x0250D193 = .srai 3 1 0x00000025 ∧
    decode 0x402091B3 = .sll 3 1 2 ∧
    decode 0x0220F1B3 = .and 3 1 2 := by decide
-- V-DEC-31 to V-DEC-40
theorem test_decode_vectors_d :
    decode 0x40509193 = .slli 3 1 0x00000405 ∧
    decode 0x0080F067 = .jalr 0 1 0x00000008 ∧
    decode 0x00002463 = .unknown 0x00002463 ∧
    decode 0x00003463 = .unknown 0x00003463 ∧
    decode 0x0040B183 = .unknown 0x0040B183 ∧
    decode 0x0040E183 = .unknown 0x0040E183 ∧
    decode 0x0040F183 = .unknown 0x0040F183 ∧
    decode 0x0020B223 = .unknown 0x0020B223 ∧
    decode 0x0020F223 = .unknown 0x0020F223 ∧
    decode 0x0000000F = .unknown 0x0000000F := by decide
-- V-DEC-41 to V-DEC-50
theorem test_decode_vectors_e :
    decode 0x0000100F = .unknown 0x0000100F ∧
    decode 0x0000001B = .unknown 0x0000001B ∧
    decode 0x0000003B = .unknown 0x0000003B ∧
    decode 0x0000002F = .unknown 0x0000002F ∧
    decode 0x00000053 = .unknown 0x00000053 ∧
    decode 0x00000001 = .unknown 0x00000001 ∧
    decode 0x00100073 = .ecall ∧
    decode 0x30200073 = .ecall ∧
    decode 0x10500073 = .ecall ∧
    decode 0x300110F3 = .ecall := by decide

-- V-DEC-33: the immediate of an Unknown word is still the one its opcode selects
theorem test_unknown_keeps_immediate : (decodeFields 0x00002463).imm = 8 ∧ (decodeFields 0x00002463).op = .unknown := by
  decide

-- One word for every remaining row, written field by field from 30_encoding R51, R61, R63 (the words of the vectors
-- V-ALU, V-ALI, V-CMP, V-BR, V-LD, V-ST).
theorem test_decode_reg_reg :
    decode 0b0000000_00010_00001_010_00011_0110011 = .slt 3 1 2 ∧
    decode 0b0000000_00010_00001_011_00011_0110011 = .sltu 3 1 2 ∧
    decode 0b0000000_00010_00001_100_00011_0110011 = .xor 3 1 2 ∧
    decode 0b0000000_00010_00001_110_00011_0110011 = .or 3 1 2 := by decide

theorem test_decode_reg_imm :
    decode 0b111111111111_00001_010_00011_0010011 = .slti 3 1 0xFFFFFFFF ∧
    decode 0b011111111111_00001_011_00011_0010011 = .sltiu 3 1 0x000007FF ∧
    decode 0b111111111111_00001_100_00011_0010011 = .xori 3 1 0xFFFFFFFF ∧
    decode 0b100000000000_00001_110_00011_0010011 = .ori 3 1 0xFFFFF800 ∧
    decode 0b111111110000_00001_111_00011_0010011 = .andi 3 1 0xFFFFFFF0 := by decide

theorem test_decode_branches :
    decode 0b1_111111_00010_00001_001_1000_1_1100011 = .bne 1 2 0xFFFFFFF0 ∧
    decode 0b0_000000_00010_00001_100_1000_0_1100011 = .blt 1 2 0x00000010 ∧
    decode 0b0_000000_00010_00001_101_1000_0_1100011 = .bge 1 2 0x00000010 ∧
    decode 0b0_000000_00010_00001_110_1000_0_1100011 = .bltu 1 2 0x00000010 ∧
    decode 0b0_000000_00010_00001_111_1000_0_1100011 = .bgeu 1 2 0x00000010 := by decide

theorem test_decode_loads_stores :
    decode 0b111111111111_00001_001_00011_0000011 = .lh 3 1 0xFFFFFFFF ∧
    decode 0b000000000001_00001_010_00011_0000011 = .lw 3 1 0x00000001 ∧
    decode 0b000000000000_00001_100_00011_0000011 = .lbu 3 1 0x00000000 ∧
    decode 0b000000000000_00001_101_00011_0000011 = .lhu 3 1 0x00000000 ∧
    decode 0b1111111_00010_00001_001_11111_0100011 = .sh 1 2 0xFFFFFFFF := by decide

theorem test_decode_table_word :
    decodeTableWord 32 0x00A00513 = some (.addi 10 0 10) ∧ decodeTableWord 32 0x0000000F = some (.unknown 0x0000000F) := by
  decide

theorem test_encode :
    encode (.sw 1 2 0xFFFFFFFF) = 0xFE20AFA3 ∧ encode (.beq 0 0 0xFFFFF000) = 0x80000063 ∧
    encode (.jal 0 0x000FFFFE) = 0x7FFFF06F ∧ encode (.srai 3 1 0x00000405) = 0x4050D193 := by decide

/-! ### One step: spec/95_test_vectors part 2 -/

/-- The start state of a vector: the reset state with `x[3] = 0x55555555`, the listed registers, pc and bytes. -/
def testState (pc : Word) (regs : List (RegIdx × Word)) (bytes : List Host.Cell) : State :=
  let s := regs.foldl (fun s rv => s.setReg rv.1 rv.2) ((State.reset.setReg 3 0x55555555).goto pc)
  { s with mem := bytes.foldl (fun m c => Memory.write m c.1 c.2) [] }

/-- What the step of a word shows: the outcome, the pc after it and a register after it. -/
def seen (s : State) (w : Nat) (r : RegIdx) : Option StepOutcome × Word × Word :=
  let t := s.withFetchWord 32 w
  (stepOutcome t, (stateAfter t).pc, (stateAfter t).reg r)

/-- What the step of a word shows: the outcome, the pc after it and bytes of memory after it. -/
def seenMem (s : State) (w : Nat) (a n : Nat) : Option StepOutcome × Word × List Byte :=
  let t := s.withFetchWord 32 w
  (stepOutcome t, (stateAfter t).pc, Memory.readBytes (stateAfter t).mem a n)

-- V-UI-1 lui x3, 0x80000
theorem test_lui :
    seen (testState 0x00000100 [] []) 0x800001B7 3 = (some (.continues), 0x00000104, 0x80000000) := by decide
-- V-UI-7 lui x0, 0x12345
theorem test_lui_x0 :
    seen (testState 0x00000100 [] []) 0x12345037 0 = (some (.continues), 0x00000104, 0x00000000) := by decide
-- V-UI-5 auipc x3, 0xFFFFF
theorem test_auipc_wraps :
    seen (testState 0x00000008 [] []) 0xFFFFF197 3 = (some (.continues), 0x0000000C, 0xFFFFF008) := by decide
-- V-UI-6 auipc x3, 1
theorem test_auipc :
    seen (testState 0x00000104 [] []) 0x00001197 3 = (some (.continues), 0x00000108, 0x00001104) := by decide
-- V-JMP-2 jal x1, -4
theorem test_jal_back :
    seen (testState 0x00000100 [] []) 0xFFDFF0EF 1 = (some (.continues), 0x000000FC, 0x00000104) := by decide
-- V-JMP-4 jal x1, -8
theorem test_jal_wraps :
    seen (testState 0x00000004 [] []) 0xFF9FF0EF 1 = (some (.continues), 0xFFFFFFFC, 0x00000008) := by decide
-- V-JMP-7 jalr x1, 1(x5)
theorem test_jalr_keeps_bit0 :
    seen (testState 0x00000100 [(5, 0x00000200)] []) 0x001280E7 1 = (some (.continues), 0x00000201, 0x00000104) := by decide
-- V-JMP-8 jalr x5, 0(x5)
theorem test_jalr_rd_is_rs1 :
    seen (testState 0x00000100 [(5, 0x00000200)] []) 0x000282E7 5 = (some (.continues), 0x00000200, 0x00000104) := by decide
-- V-BR-2 beq x1, x2, +16
theorem test_beq_not_taken :
    seen (testState 0x00000040 [(1, 0x00000007), (2, 0x00000008)] []) 0x00208863 1 = (some (.continues), 0x00000044, 0x00000007) := by decide
-- V-BR-14 beq x0, x0, -128
theorem test_beq_wraps :
    seen (testState 0x00000040 [] []) 0xF80000E3 1 = (some (.continues), 0xFFFFFFC0, 0x00000000) := by decide
-- V-BR-3 bne x1, x2, -16
theorem test_bne_taken :
    seen (testState 0x00000040 [(1, 0x00000007), (2, 0x00000008)] []) 0xFE2098E3 1 = (some (.continues), 0x00000030, 0x00000007) := by decide
-- V-BR-4 bne x1, x2, -16
theorem test_bne_not_taken :
    seen (testState 0x00000040 [(1, 0x00000007), (2, 0x00000007)] []) 0xFE2098E3 1 = (some (.continues), 0x00000044, 0x00000007) := by decide
-- V-BR-5 blt x1, x2, +16
theorem test_blt_taken :
    seen (testState 0x00000040 [(1, 0xFFFFFFFF), (2, 0x00000001)] []) 0x0020C863 1 = (some (.continues), 0x00000050, 0xFFFFFFFF) := by decide
-- V-BR-11 blt x1, x2, +16
theorem test_blt_min_max :
    seen (testState 0x00000040 [(1, 0x80000000), (2, 0x7FFFFFFF)] []) 0x0020C863 1 = (some (.continues), 0x00000050, 0x80000000) := by decide
-- V-BR-7 bge x1, x2, +16
theorem test_bge_equal :
    seen (testState 0x00000040 [(1, 0x00000005), (2, 0x00000005)] []) 0x0020D863 1 = (some (.continues), 0x00000050, 0x00000005) := by decide
-- V-BR-8 bge x1, x2, +16
theorem test_bge_negative :
    seen (testState 0x00000040 [(1, 0x80000000), (2, 0x00000000)] []) 0x0020D863 1 = (some (.continues), 0x00000044, 0x80000000) := by decide
-- V-BR-6 bltu x1, x2, +16
theorem test_bltu_not_taken :
    seen (testState 0x00000040 [(1, 0xFFFFFFFF), (2, 0x00000001)] []) 0x0020E863 1 = (some (.continues), 0x00000044, 0xFFFFFFFF) := by decide
-- V-BR-9 bgeu x1, x2, +16
theorem test_bgeu_taken :
    seen (testState 0x00000040 [(1, 0x80000000), (2, 0x00000000)] []) 0x0020F863 1 = (some (.continues), 0x00000050, 0x80000000) := by decide
-- V-BR-10 bgeu x1, x2, +16
theorem test_bgeu_not_taken :
    seen (testState 0x00000040 [(1, 0x00000000), (2, 0x00000001)] []) 0x0020F863 1 = (some (.continues), 0x00000044, 0x00000000) := by decide
-- V-LD-1 lb x3, 0(x1)
theorem test_lb_sign :
    seen (testState 0x00000040 [(1, 0x00000100)] [(0x100, 0xEF), (0x101, 0xBE), (0x102, 0xAD), (0x103, 0xDE), (0x104, 0x78), (0x105, 0x56)]) 0x00008183 3 = (some (.continues), 0x00000044, 0xFFFFFFEF) := by decide
-- V-LD-15 lb x3, -1(x0)
theorem test_lb_wraps_and_faults :
    seen (testState 0x00000040 [(3, 0x00000055)] []) 0xFFF00183 3 = (some (.fault 0x00000040#32 0xFFFFFFFF#32), 0x00000040, 0x00000055) := by decide
-- V-LD-9 lh x3, -1(x1)
theorem test_lh_misaligned :
    seen (testState 0x00000040 [(1, 0x00000102)] [(0x100, 0xEF), (0x101, 0xBE), (0x102, 0xAD), (0x103, 0xDE), (0x104, 0x78), (0x105, 0x56)]) 0xFFF09183 3 = (some (.continues), 0x00000044, 0xFFFFADBE) := by decide
-- V-LD-7 lh x3, 4(x1)
theorem test_lh_positive :
    seen (testState 0x00000040 [(1, 0x00000100)] [(0x100, 0xEF), (0x101, 0xBE), (0x102, 0xAD), (0x103, 0xDE), (0x104, 0x78), (0x105, 0x56)]) 0x00409183 3 = (some (.continues), 0x00000044, 0x00005678) := by decide
-- V-LD-8 lw x3, 1(x1)
theorem test_lw_misaligned :
    seen (testState 0x00000040 [(1, 0x00000100)] [(0x100, 0xEF), (0x101, 0xBE), (0x102, 0xAD), (0x103, 0xDE), (0x104, 0x78), (0x105, 0x56)]) 0x0010A183 3 = (some (.continues), 0x00000044, 0x78DEADBE) := by decide
-- V-LD-13 lw x3, -3(x2)
theorem test_lw_straddles_the_end :
    seen (testState 0x00000040 [(3, 0x00000055)] []) 0xFFD12183 3 = (some (.fault 0x00000040#32 0x000FFFFD#32), 0x00000040, 0x00000055) := by decide
-- V-LD-2 lbu x3, 0(x1)
theorem test_lbu :
    seen (testState 0x00000040 [(1, 0x00000100)] [(0x100, 0xEF), (0x101, 0xBE), (0x102, 0xAD), (0x103, 0xDE), (0x104, 0x78), (0x105, 0x56)]) 0x0000C183 3 = (some (.continues), 0x00000044, 0x000000EF) := by decide
-- V-LD-4 lhu x3, 0(x1)
theorem test_lhu :
    seen (testState 0x00000040 [(1, 0x00000100)] [(0x100, 0xEF), (0x101, 0xBE), (0x102, 0xAD), (0x103, 0xDE), (0x104, 0x78), (0x105, 0x56)]) 0x0000D183 3 = (some (.continues), 0x00000044, 0x0000BEEF) := by decide
-- V-ST-1 sb x2, 0(x1)
theorem test_sb :
    seenMem (testState 0x00000040 [(1, 0x00000100), (2, 0xDEADBEEF)] [(0x100, 0x11), (0x101, 0x11), (0x102, 0x11), (0x103, 0x11), (0x104, 0x11), (0x105, 0x11), (0x106, 0x11), (0x107, 0x11)]) 0x00208023 0x0FF 9 =
      (some (.continues), 0x00000044, [0x00, 0xEF, 0x11, 0x11, 0x11, 0x11, 0x11, 0x11, 0x11]) := by decide
-- V-ST-9 sb x1, 0(x2)
theorem test_sb_faults :
    seen (testState 0x00000040 [(1, 0xCAFEF00D)] []) 0x00110023 1 = (some (.fault 0x00000040#32 0x00100000#32), 0x00000040, 0xCAFEF00D) := by decide
-- V-ST-2 sh x2, 0(x1)
theorem test_sh :
    seenMem (testState 0x00000040 [(1, 0x00000100), (2, 0xDEADBEEF)] [(0x100, 0x11), (0x101, 0x11), (0x102, 0x11), (0x103, 0x11), (0x104, 0x11), (0x105, 0x11), (0x106, 0x11), (0x107, 0x11)]) 0x00209023 0x0FF 9 =
      (some (.continues), 0x00000044, [0x00, 0xEF, 0xBE, 0x11, 0x11, 0x11, 0x11, 0x11, 0x11]) := by decide
-- V-ST-5 sh x2, -1(x1)
theorem test_sh_misaligned :
    seenMem (testState 0x00000040 [(1, 0x00000104), (2, 0xDEADBEEF)] [(0x100, 0x11), (0x101, 0x11), (0x102, 0x11), (0x103, 0x11), (0x104, 0x11), (0x105, 0x11), (0x106, 0x11), (0x107, 0x11)]) 0xFE209FA3 0x100 8 =
      (some (.continues), 0x00000044, [0x11, 0x11, 0x11, 0xEF, 0xBE, 0x11, 0x11, 0x11]) := by decide
-- V-ST-4 sw x2, 1(x1)
theorem test_sw_misaligned :
    seenMem (testState 0x00000040 [(1, 0x00000100), (2, 0xDEADBEEF)] [(0x100, 0x11), (0x101, 0x11), (0x102, 0x11), (0x103, 0x11), (0x104, 0x11), (0x105, 0x11), (0x106, 0x11), (0x107, 0x11)]) 0x0020A0A3 0x100 8 =
      (some (.continues), 0x00000044, [0x11, 0xEF, 0xBE, 0xAD, 0xDE, 0x11, 0x11, 0x11]) := by decide
-- V-ST-8 sw x1, -2(x2)
theorem test_sw_straddles_the_end :
    seen (testState 0x00000040 [(1, 0xCAFEF00D)] []) 0xFE112F23 1 = (some (.fault 0x00000040#32 0x000FFFFE#32), 0x00000040, 0xCAFEF00D) := by decide
-- V-ALI-2 addi x3, x1, 2047
theorem test_addi_wraps :
    seen (testState 0x00000100 [(1, 0x7FFFFFFF)] []) 0x7FF08193 3 = (some (.continues), 0x00000104, 0x800007FE) := by decide
-- V-ALI-3 addi x3, x1, -2048
theorem test_addi_negative :
    seen (testState 0x00000100 [(1, 0x80000000)] []) 0x80008193 3 = (some (.continues), 0x00000104, 0x7FFFF800) := by decide
-- V-CMP-7 slti x3, x1, -1
theorem test_slti_negative :
    seen (testState 0x00000100 [(1, 0xFFFFFFFE)] []) 0xFFF0A193 3 = (some (.continues), 0x00000104, 0x00000001) := by decide
-- V-CMP-8 slti x3, x1, -2048
theorem test_slti_min :
    seen (testState 0x00000100 [(1, 0x80000000)] []) 0x8000A193 3 = (some (.continues), 0x00000104, 0x00000001) := by decide
-- V-CMP-9 sltiu x3, x1, -1
theorem test_sltiu_sign_extends :
    seen (testState 0x00000100 [(1, 0x00000005)] []) 0xFFF0B193 3 = (some (.continues), 0x00000104, 0x00000001) := by decide
-- V-CMP-12 sltiu x3, x1, 2047
theorem test_sltiu_not_less :
    seen (testState 0x00000100 [(1, 0x00000800)] []) 0x7FF0B193 3 = (some (.continues), 0x00000104, 0x00000000) := by decide
-- V-ALI-8 xori x3, x1, -1
theorem test_xori :
    seen (testState 0x00000100 [(1, 0x12345678)] []) 0xFFF0C193 3 = (some (.continues), 0x00000104, 0xEDCBA987) := by decide
-- V-ALI-7 ori x3, x1, -2048
theorem test_ori :
    seen (testState 0x00000100 [(1, 0x12345678)] []) 0x8000E193 3 = (some (.continues), 0x00000104, 0xFFFFFE78) := by decide
-- V-ALI-5 andi x3, x1, -16
theorem test_andi :
    seen (testState 0x00000100 [(1, 0x12345678)] []) 0xFF00F193 3 = (some (.continues), 0x00000104, 0x12345670) := by decide
-- V-ALI-9 slli x3, x1, 31
theorem test_slli :
    seen (testState 0x00000100 [(1, 0x00000003)] []) 0x01F09193 3 = (some (.continues), 0x00000104, 0x80000000) := by decide
-- V-ALI-15 (SLLI with funct7 = 0x20, shamt 5)
theorem test_slli_ignores_funct7 :
    seen (testState 0x00000100 [(1, 0x00000001)] []) 0x40509193 3 = (some (.continues), 0x00000104, 0x00000020) := by decide
-- V-ALI-11 srli x3, x1, 4
theorem test_srli :
    seen (testState 0x00000100 [(1, 0x80000000)] []) 0x0040D193 3 = (some (.continues), 0x00000104, 0x08000000) := by decide
-- V-ALI-13 srai x3, x1, 31
theorem test_srai :
    seen (testState 0x00000100 [(1, 0xFFFFFFFE)] []) 0x41F0D193 3 = (some (.continues), 0x00000104, 0xFFFFFFFF) := by decide
-- V-ALI-14 (funct7 = 0x01, shamt 5)
theorem test_srai_by_any_funct7 :
    seen (testState 0x00000100 [(1, 0x80000000)] []) 0x0250D193 3 = (some (.continues), 0x00000104, 0xFC000000) := by decide
-- V-ALU-2 add x3, x1, x2
theorem test_add_wraps :
    seen (testState 0x00000100 [(1, 0xFFFFFFFF), (2, 0x00000001)] []) 0x002081B3 3 = (some (.continues), 0x00000104, 0x00000000) := by decide
-- V-ALU-19 add x0, x1, x2
theorem test_add_x0 :
    seen (testState 0x00000100 [(1, 0x00000005), (2, 0x00000006)] []) 0x00208033 0 = (some (.continues), 0x00000104, 0x00000000) := by decide
-- V-ALU-5 sub x3, x1, x2
theorem test_sub :
    seen (testState 0x00000100 [(1, 0x80000000), (2, 0x00000001)] []) 0x402081B3 3 = (some (.continues), 0x00000104, 0x7FFFFFFF) := by decide
-- V-ALU-6 (std mul x3, x1, x2)
theorem test_sub_in_place_of_mul :
    seen (testState 0x00000100 [(1, 0x00000006), (2, 0x00000007)] []) 0x022081B3 3 = (some (.continues), 0x00000104, 0xFFFFFFFF) := by decide
-- V-ALU-11 sll x3, x1, x2
theorem test_sll_count_modulo_32 :
    seen (testState 0x00000100 [(1, 0x00000001), (2, 0x00000020)] []) 0x002091B3 3 = (some (.continues), 0x00000104, 0x00000001) := by decide
-- V-ALU-12 sll x3, x1, x2
theorem test_sll_count_low_bits :
    seen (testState 0x00000100 [(1, 0xFFFFFFFF), (2, 0xFFFFFFE4)] []) 0x002091B3 3 = (some (.continues), 0x00000104, 0xFFFFFFF0) := by decide
-- V-CMP-3 slt x3, x1, x2
theorem test_slt :
    seen (testState 0x00000100 [(1, 0x80000000), (2, 0x7FFFFFFF)] []) 0x0020A1B3 3 = (some (.continues), 0x00000104, 0x00000001) := by decide
-- V-CMP-5 slt x3, x1, x2
theorem test_slt_equal :
    seen (testState 0x00000100 [(1, 0x00000005), (2, 0x00000005), (3, 0xAAAAAAAA)] []) 0x0020A1B3 3 = (some (.continues), 0x00000104, 0x00000000) := by decide
-- V-CMP-4 sltu x3, x1, x2
theorem test_sltu :
    seen (testState 0x00000100 [(1, 0x80000000), (2, 0x7FFFFFFF)] []) 0x0020B1B3 3 = (some (.continues), 0x00000104, 0x00000000) := by decide
-- V-CMP-6 sltu x3, x0, x2 (snez)
theorem test_sltu_snez :
    seen (testState 0x00000100 [(2, 0x00000001)] []) 0x002031B3 3 = (some (.continues), 0x00000104, 0x00000001) := by decide
-- V-ALU-9 xor x3, x1, x2
theorem test_xor :
    seen (testState 0x00000100 [(1, 0xF0F0A5A5), (2, 0x0FF0FF00)] []) 0x0020C1B3 3 = (some (.continues), 0x00000104, 0xFF005AA5) := by decide
-- V-ALU-13 srl x3, x1, x2
theorem test_srl :
    seen (testState 0x00000100 [(1, 0x80000000), (2, 0x0000001F)] []) 0x0020D1B3 3 = (some (.continues), 0x00000104, 0x00000001) := by decide
-- V-ALU-14 srl x3, x1, x2
theorem test_srl_by_4 :
    seen (testState 0x00000100 [(1, 0x80000000), (2, 0x00000004)] []) 0x0020D1B3 3 = (some (.continues), 0x00000104, 0x08000000) := by decide
-- V-ALU-15 sra x3, x1, x2
theorem test_sra :
    seen (testState 0x00000100 [(1, 0x80000000), (2, 0x00000004)] []) 0x4020D1B3 3 = (some (.continues), 0x00000104, 0xF8000000) := by decide
-- V-ALU-17 sra x3, x1, x2
theorem test_sra_positive :
    seen (testState 0x00000100 [(1, 0x7FFFFFFF), (2, 0x0000001F)] []) 0x4020D1B3 3 = (some (.continues), 0x00000104, 0x00000000) := by decide
-- V-ALU-8 or x3, x1, x2
theorem test_or :
    seen (testState 0x00000100 [(1, 0xF0F0A5A5), (2, 0x0FF0FF00)] []) 0x0020E1B3 3 = (some (.continues), 0x00000104, 0xFFF0FFA5) := by decide
-- V-ALU-7 and x3, x1, x2
theorem test_and :
    seen (testState 0x00000100 [(1, 0xF0F0A5A5), (2, 0x0FF0FF00)] []) 0x0020F1B3 3 = (some (.continues), 0x00000104, 0x00F0A500) := by decide
-- V-SYS-3 ecall
theorem test_ecall_full_word_test :
    seen (testState 0x00000024 [(10, 0x0001000A)] []) 0x00000073 0 = (some (.continues), 0x00000028, 0x00000000) := by decide
-- V-SYS-5 (std ebreak)
theorem test_ecall_halts :
    seen (testState 0x00000024 [(10, 0x0000000A)] []) 0x00100073 0 = (some (.halt), 0x00000028, 0x00000000) := by decide
-- V-SYS-9 
theorem test_unknown_all_ones :
    seen (testState 0x00000010 [] []) 0xFFFFFFFF 31 = (some (.warn 0x00000010#32 0xFFFFFFFF#32), 0x00000014, 0x00000000) := by decide
-- V-SYS-10 (std RV64 ld x3, 4(x1))
theorem test_unknown_accesses_nothing :
    seen (testState 0x00000010 [(1, 0xFFFFFFF0)] []) 0x0040B183 3 = (some (.warn 0x00000010#32 0x0040B183#32), 0x00000014, 0x55555555) := by decide
-- V-FE-1 nop at the last word
theorem test_fetch_last_word :
    seen (testState 0x000FFFFC [] []) 0x00000013 0 = (some (.continues), 0x00100000, 0x00000000) := by decide

-- R165 and the fourth row of the table of part 1.3
theorem test_bltu_taken :
    seen (testState 0x00000040 [(1, 0x00000001), (2, 0xFFFFFFFF)] []) 0x0020E863 1 =
      (some .continues, 0x00000050, 0x00000001) := by decide

/-! ### Fetch, stop, reset, load, dump -/

-- V-FE-3, V-FE-4: a straddling fetch and a wrapped pc
theorem test_fetch_straddles : stepOutcome (State.reset.goto 0x000FFFFE) = some (.fault 0x000FFFFE 0x000FFFFE) := by decide
theorem test_fetch_wrapped_pc : stepOutcome (State.reset.goto 0xFFFFFFFC) = some (.fault 0xFFFFFFFC 0xFFFFFFFC) := by decide

-- 60_exceptions R203: after a fault no step is taken, and reset is the way out (V-RST-4)
theorem test_fault_is_final :
    let t := stateAfter (State.reset.goto 0x00100000)
    t.faulted = true ∧ stepOutcome t = none ∧ stateAfter t = t ∧ hostReset t = State.reset := by decide

-- V-RST-1, V-RST-2
theorem test_reset_values :
    State.reset.pc = 0 ∧ State.reset.reg 2 = 0x00100000 ∧ State.reset.reg 10 = 0 ∧ State.reset.running = true ∧
    State.reset.faulted = false ∧ (State.resetWith 16).reg 2 = 0x00000010 := by decide

-- V-RST-5: the first fetch reads 0x00600293
theorem test_image_load :
    ((launch 0x00100000 [0x93, 0x02, 0x60, 0x00, 0xFF]).toOption.bind State.fetch) = some 0x00600293#32 := by decide

-- V-RST-6
theorem test_image_too_large : (launch 16 (List.replicate 17 0xFF)).toOption = none := by decide

-- P6: the first step over cleared memory of 16 bytes, and the last
theorem test_cleared_memory :
    stepOutcome (State.resetWith 16) = some (.warn 0 0) ∧
    stepOutcome ((State.resetWith 16).goto 0x00000010) = some (.fault 0x00000010 0x00000010) := by decide

-- 60_exceptions R224: x[2] = 0x00100000 stands at bytes 8 to 11, most significant byte first
theorem test_register_dump : ((registerDump State.reset).drop 8).take 4 = [0x00, 0x10, 0x00, 0x00] := by decide

-- 60_exceptions R225, R228: register 32 and a byte beyond the memory are rejected
theorem test_inspection :
    (inspectReg State.reset 2).toOption = some 0x00100000#32 ∧ (inspectReg State.reset 32).toOption = none ∧
    (inspectMem State.reset 0x000FFFFC 4).toOption = some [0, 0, 0, 0] ∧ (inspectMem State.reset 0x000FFFFD 4).toOption = none := by
  decide

-- 41_step_cycle R110: the datapath on one word of each unit
theorem test_datapath :
    let s := (testState 0x00000040 [(1, 0x00000100)] []).withFetchWord 32 0x0010A183
    stepOutcome s = (datapathStep s).2 ∧ (datapathStep s).2 = some .continues := by decide

/-! ### A witness for the hypotheses of every obligation that has some

Small states: `small` is the reset state of a 16-byte machine, `armed` puts its pc at 4 and `x[1]`, `x[2]` in use. -/

def small : State := State.resetWith 16
def armed : State := (((small.setReg 1 8).setReg 2 0xDEADBEEF).goto 4)
def exiting : State := (small.setReg 10 10).withFetchWord 32 0x00000073
def halted : State := (small.setReg 10 10).halt
def stopped : State := { small.goto 16 with faulted := true }
def session : DebugSession := { breakpoints := [0], budget := some 3, verbose := false, awaitingInput := false }
def host : HostState := { core := small, session := session, started := false }

theorem small_inv : small.Inv := ⟨by decide, by decide, by decide, by decide, by decide, by decide, by decide⟩
theorem halted_inv : halted.Inv := ⟨by decide, by decide, by decide, by decide, by decide, by decide, by decide⟩
theorem edge_inv : (small.goto 16).Inv := ⟨by decide, by decide, by decide, by decide, by decide, by decide, by decide⟩

/-- Least and greatest size. -/
theorem witness_ResetValues :
    (Config.minMemSize ≤ 4 ∧ 4 ≤ Config.maxMemSize ∧ (3#5 : RegIdx) ≠ 2#5) ∧
    (Config.minMemSize ≤ 2147483648 ∧ 2147483648 ≤ Config.maxMemSize) := by decide

theorem witness_ResetMeetsInvariant :
    (Config.minMemSize ≤ 4 ∧ 4 ≤ Config.maxMemSize) ∧ Config.minMemSize ≤ 2147483648 ∧ 2147483648 ≤ Config.maxMemSize := by
  decide

/-- A next state, a fault and no step. -/
theorem witness_StepKeepsInvariant :
    (small.Inv ∧ ∃ t, step small = .next t) ∧
    ((small.goto 16).Inv ∧ ∃ pc addr t, step (small.goto 16) = .fault (.memoryFault pc addr t)) ∧
    (halted.Inv ∧ ∃ t, step halted = .fault (.noStep t)) :=
  ⟨⟨small_inv, _, rfl⟩, ⟨edge_inv, _, _, _, rfl⟩, halted_inv, _, rfl⟩

theorem witness_HostMovesKeepInvariant :
    host.core.Inv ∧ (∃ h', host.load (some [0x93, 0x02, 0x60, 0x00]) = some (.ok h')) ∧
    ∃ t, loadImage (some [0x93, 0x02, 0x60, 0x00]) small = .ok t := ⟨small_inv, ⟨_, rfl⟩, _, rfl⟩

/-- The ends of the ranges of the five formats. -/
theorem witness_DecodeEncodeRoundTrip :
    (Instr.addi 31 31 0x000007FF).wellFormed = true ∧ (Instr.sb 31 0 0xFFFFF800).wellFormed = true ∧
    (Instr.bne 1 2 0x00000FFE).wellFormed = true ∧ (Instr.lui 1 0xFFFFF000).wellFormed = true ∧
    (Instr.jal 1 0xFFF00000).wellFormed = true ∧ (Instr.srli 1 2 31).wellFormed = true ∧
    (Instr.srai 1 2 0xFFFFFFFF).wellFormed = true ∧ (Instr.unknown 0xFFFFFFFF).wellFormed = true := by decide

/-- The statement holds of two words, at every bit index. -/
theorem witness_ImmediateBits :
    (∀ k, k < 12 → (immI 0xC6318C03).getLsbD k = (0xC6318C03#32).getLsbD (20 + k)) ∧
    (∀ k, k < 5 → (immS 0xC6318C23).getLsbD k = (0xC6318C23#32).getLsbD (7 + k)) ∧
    (immB 0xC6318C63).getLsbD 11 = (0xC6318C63#32).getLsbD 7 ∧ (immJ 0xC6318C6F).getLsbD 11 = (0xC6318C6F#32).getLsbD 20 ∧
    (∀ k, k < 12 → (immU 0xC6318C37).getLsbD k = false) := by decide

/-- funct7 = 0x00, 0x01, 0x20, 0x7F of the three pairs. -/
theorem witness_AlternateFormByNonzeroFunct7 :
    HasCodes 0x002081B3 0x33 0b000 ∧ HasCodes 0x022081B3 0x33 0b000 ∧ HasCodes 0x0020D1B3 0x33 0b101 ∧
    HasCodes 0x4020D1B3 0x33 0b101 ∧ HasCodes 0x0050D193 0x13 0b101 ∧ HasCodes 0xFE50D193 0x13 0b101 := by
  unfold HasCodes; decide

theorem witness_OperandsOfRegisterAndBranchWords :
    HasCodes 0x002091B3 0x33 0b001 ∧ HasCodes 0x0020A1B3 0x33 0b010 ∧ HasCodes 0x0020B1B3 0x33 0b011 ∧
    HasCodes 0x0020C1B3 0x33 0b100 ∧ HasCodes 0x0020E1B3 0x33 0b110 ∧ HasCodes 0x0220F1B3 0x33 0b111 ∧
    HasCodes 0x80008193 0x13 0b000 ∧ HasCodes 0x40509193 0x13 0b001 ∧ HasCodes 0xFFF0A193 0x13 0b010 ∧
    HasCodes 0x7FF0B193 0x13 0b011 ∧ HasCodes 0xFFF0C193 0x13 0b100 ∧ HasCodes 0x8000E193 0x13 0b110 ∧
    HasCodes 0xFF00F193 0x13 0b111 ∧ HasCodes 0x80000063 0x63 0b000 ∧ HasCodes 0xFE2098E3 0x63 0b001 ∧
    HasCodes 0x0020C863 0x63 0b100 ∧ HasCodes 0x0020D863 0x63 0b101 ∧ HasCodes 0x0020E863 0x63 0b110 ∧
    HasCodes 0x0020F863 0x63 0b111 := by unfold HasCodes; decide

/-- The sample words the statement lists decode as it says. -/
theorem test_SampleWordsDecode : Obligations.SampleWordsDecode := by unfold Obligations.SampleWordsDecode; decide

theorem witness_StepRunsDecodedInstruction :
    exiting.running = true ∧ exiting.faulted = false ∧ exiting.pc.toNat + 4 ≤ exiting.memSize ∧
    decodeBytes (Memory.readBytes exiting.mem exiting.pc.toNat 4) = .ok (.ecall, []) :=
  ⟨by decide, by decide, by decide, rfl⟩

/-- The last word inside, and the first pc outside. -/
theorem witness_FetchOutsideMemoryFaults :
    ((small.goto 12).running = true ∧ (small.goto 12).faulted = false ∧ (small.goto 12).pc.toNat + 4 ≤ (small.goto 12).memSize) ∧
    ((small.goto 13).running = true ∧ (small.goto 13).faulted = false ∧ (small.goto 13).memSize < (small.goto 13).pc.toNat + 4) := by
  decide

theorem witness_StoppedCoreTakesNoStep : halted.running = false ∧ stopped.faulted = true := by decide

/-- At the last word of the memory. -/
theorem witness_PlacedWordIsRunNext :
    Memory.wf (small.goto 12).mem = true ∧ (small.goto 12).running = true ∧ (small.goto 12).faulted = false ∧
    (small.goto 12).pc.toNat + 4 ≤ (small.goto 12).memSize := by decide

/-- Every outcome occurs, and no step. -/
theorem witness_OutcomeTable :
    stepOutcome (small.goto 16) = some (.fault 16 16) ∧ stepOutcome small = some (.warn 0 0) ∧
    stepOutcome exiting = some .halt ∧ stepOutcome (small.withFetchWord 32 0x00000013) = some .continues ∧
    stepOutcome halted = none ∧ stepOutcome stopped = none := by decide

/-- The last address inside and the first outside, for 1, 2 and 4 bytes. -/
theorem witness_MemReadIsLittleEndianAndBounded :
    ((15#32).toNat + 1 ≤ small.memSize ∧ small.memSize < (16#32).toNat + 1) ∧
    ((14#32).toNat + 2 ≤ small.memSize ∧ small.memSize < (15#32).toNat + 2) ∧
    ((12#32).toNat + 4 ≤ small.memSize ∧ small.memSize < (13#32).toNat + 4) := by decide

theorem witness_MemWriteIsAllOrNothing :
    Memory.wf small.mem = true ∧ (4 ≤ 4) ∧ (12#32).toNat + 4 ≤ small.memSize ∧ small.memSize < (13#32).toNat + 4 := by decide

/-- The greatest machine and the lowest address with bit 31 set. -/
theorem witness_HighAddressesOutsideEveryMemory :
    (State.resetWith 2147483648).memSize ≤ Config.maxMemSize ∧ (0x80000000#32).getLsbD 31 = true ∧ 0 < 1 := by decide

theorem witness_EqualMemoriesAreEqualLists :
    Memory.wf [(3, 0x11#8)] = true ∧ Memory.wf (Memory.write [] 3 0x11) = true ∧
    ∀ a, Memory.read [(3, 0x11#8)] a = Memory.read (Memory.write [] 3 0x11) a := ⟨by decide, by decide, fun _ => rfl⟩

theorem witness_UpperImmediates : HasOpcode 0xFFFFF1B7 0x37 ∧ HasOpcode 0x00001197 0x17 := by unfold HasOpcode; decide

theorem witness_JalLinksAndJumps : HasOpcode 0x7FFFF06F 0x6F ∧ HasOpcode 0x8000006F 0x6F := by unfold HasOpcode; decide

theorem witness_JalrLinksAndJumps : HasOpcode 0x00008067 0x67 ∧ HasOpcode 0x0002F0E7 0x67 := by unfold HasOpcode; decide

/-- A word of each load, and the last address inside for each width (`x[1] = 8`). -/
theorem witness_LoadsReadAndExtend :
    (HasCodes 0x00008183 0x03 0b000 ∧ HasCodes 0x00009183 0x03 0b001 ∧ HasCodes 0x0000A183 0x03 0b010 ∧
      HasCodes 0x0000C183 0x03 0b100 ∧ HasCodes 0x0000D183 0x03 0b101) ∧
    ((armed.reg 1 + 7).toNat + 1 ≤ armed.memSize ∧ (armed.reg 1 + 6).toNat + 2 ≤ armed.memSize ∧
      (armed.reg 1 + 4).toNat + 4 ≤ armed.memSize) := by unfold HasCodes; decide

/-- The first address outside for each width. -/
theorem witness_LoadsOutsideMemoryFault :
    armed.memSize < (armed.reg 1 + 8).toNat + 1 ∧ armed.memSize < (armed.reg 1 + 7).toNat + 2 ∧
    armed.memSize < (armed.reg 1 + 5).toNat + 4 := by decide

theorem witness_StoresWriteLowBytes :
    (HasCodes 0x00208023 0x23 0b000 ∧ HasCodes 0x00209023 0x23 0b001 ∧ HasCodes 0x0020A023 0x23 0b010) ∧
    Memory.wf armed.mem = true ∧ (armed.reg 1 + 7).toNat + 1 ≤ armed.memSize ∧
    (armed.reg 1 + 6).toNat + 2 ≤ armed.memSize ∧ (armed.reg 1 + 4).toNat + 4 ≤ armed.memSize := by unfold HasCodes; decide

theorem witness_StoresOutsideMemoryFault :
    armed.memSize < (armed.reg 1 + 8).toNat + 1 ∧ armed.memSize < (armed.reg 1 + 7).toNat + 2 ∧
    armed.memSize < (armed.reg 1 + 5).toNat + 4 := by decide

/-- The base and the offset of the load differ from the store's: `x[0] + 12` is `x[1] + 4`. -/
theorem witness_LoadAfterStore :
    Memory.wf armed.mem = true ∧ (3#5 : RegIdx) ≠ 0#5 ∧
    (∃ t, exec (.sw 1 2 4) armed = .next t ∧ t.reg 0 + 12 = armed.reg 1 + 4) ∧
    (∃ t, exec (.sh 1 2 6) armed = .next t ∧ t.reg 0 + 14 = armed.reg 1 + 6) ∧
    (∃ t, exec (.sb 1 2 7) armed = .next t ∧ t.reg 0 + 15 = armed.reg 1 + 7) :=
  ⟨by decide, by decide, ⟨_, rfl, by decide⟩, ⟨_, rfl, by decide⟩, _, rfl, by decide⟩

theorem witness_StoreIntoNextInstruction :
    Memory.wf armed.mem = true ∧ armed.running = true ∧ armed.faulted = false ∧ armed.reg 1 + 0 = armed.pc + 4#32 ∧
    ∃ t, exec (.sw 1 2 0) armed = .next t := ⟨by decide, by decide, by decide, by decide, _, rfl⟩

/-- `x[10]` is 10, and a value whose low half alone is 10 (V-SYS-3). -/
theorem witness_EcallHaltsOnTenElseContinues :
    HasOpcode 0x300110F3 0x73 ∧ exiting.reg 10 = 0x0000000A#32 ∧ (small.setReg 10 0x0001000A).reg 10 ≠ 0x0000000A#32 := by
  unfold HasOpcode; decide

theorem witness_UnknownIsReportedNoOp :
    small.running = true ∧ small.faulted = false ∧ small.fetch = some 0 ∧ isUnknownWord 0 = true := by decide

theorem witness_NextPcOfEveryInstruction :
    (∃ t, exec (.beq 1 1 8) armed = .next t) ∧ (∃ t, exec .ecall armed = .next t) ∧
    ∃ pc addr t, exec (.lw 3 1 5) armed = .fault (.memoryFault pc addr t) := ⟨⟨_, rfl⟩, ⟨_, rfl⟩, _, _, _, rfl⟩

theorem witness_RunningChangesOnlyByExitEcall :
    (∃ t, exec .ecall exiting = .next t ∧ t.running = false) ∧ ∃ t, exec (.add 3 1 2) armed = .next t :=
  ⟨⟨_, rfl, rfl⟩, _, rfl⟩

theorem witness_OnlyDataAccessesFault :
    dataBytes (.add 3 1 2) = none ∧ dataBytes (.lw 3 1 5) = some 4 ∧
    ∃ f, exec (.lw 3 1 5) armed = .fault f := ⟨rfl, rfl, _, rfl⟩

/-- An instruction that is no store, and a store with an address on either side of its bytes. -/
theorem witness_OnlyStoresChangeMemory :
    (isStore (.lw 3 1 4) = false ∧ ∃ t, exec (.lw 3 1 4) armed = .next t) ∧
    (∃ t, exec (.sh 1 2 6) armed = .next t) ∧ 13 < (armed.effAddr 1 6).toNat ∧ (armed.effAddr 1 6).toNat + 2 ≤ 16 :=
  ⟨⟨rfl, _, rfl⟩, ⟨_, rfl⟩, by decide, by decide⟩

theorem witness_OneDestinationRegister :
    (∃ t, exec (.add 3 1 2) armed = .next t) ∧ destination (.add 3 1 2) ≠ some 4 ∧ destination (.sw 1 2 4) ≠ some 2 :=
  ⟨⟨_, rfl⟩, by decide, by decide⟩

/-- The first and the last byte of a register, and a step that writes the dump. -/
theorem witness_RegisterDumpBytes :
    (0 < 4 ∧ 3 < 4) ∧ stepOutcome exiting = some .halt ∧ dumpAfterStep exiting = some (registerDump (stateAfter exiting)) := by
  decide

/-- An image that fills the memory, and one a byte longer. -/
theorem witness_ImageLoadPlacesBytes :
    Memory.wf small.mem = true ∧ (List.replicate 16 0xFF#8).length ≤ small.memSize ∧
    small.memSize < (List.replicate 17 0xFF#8).length := by decide

theorem witness_HostResetRestarts :
    Config.minMemSize ≤ host.core.memSize ∧ host.core.memSize ≤ Config.maxMemSize := by decide

/-- With three steps of budget left. -/
theorem witness_BreakpointPromptsOnceThenResumes :
    host.core.enabled = true ∧ host.session.awaitingInput = false ∧ host.core.pc ∈ host.session.breakpoints := by decide

/-- The least and the greatest size, the first and the last step count. -/
theorem witness_ClearedMemoryRunEnds :
    (Config.minMemSize ≤ 4 ∧ 4 ≤ Config.maxMemSize ∧ 4 ∣ 4 ∧ 1 ≤ 4 / 4 ∧ 0 < 4 / 4) ∧
    (Config.minMemSize ≤ 2147483648 ∧ 2147483648 ≤ Config.maxMemSize ∧ 4 ∣ 2147483648 ∧ 536870912 ≤ 2147483648 / 4) := by
  decide

/-- A load before the first step, and after one there is none (60_exceptions R232). -/
theorem test_load_before_the_first_step_only :
    (host.load (some [0x93])).isSome = true ∧ (host.cycle.1.load (some [0x93])).isSome = false := by decide

/-- A host mid-run, a turn and a command that step, a command that is no reset, and an image that fills the memory. -/
theorem witness_MidRunTheHostOnlyResets :
    host.cycle.1.started = true ∧ (∃ o e d, { host with session := { session with breakpoints := [] } }.turn.2 = .stepped o e d) ∧
    (∃ o e d, (host.command (.step none)).2 = .resumed (.stepped o e d)) ∧ Command.run ≠ .reset ∧
    (List.replicate 16 0xFF#8).length ≤ host.core.memSize :=
  ⟨rfl, ⟨_, _, _, rfl⟩, ⟨_, _, _, rfl⟩, by decide, by decide⟩

end Sys2Proof.Tests
end

/-! What an executed instruction can do, said once for all 39 of them, and the statements about the state that follow
from it: the invariant, the next pc, `running`, memory and the registers. -/

namespace Sys2Proof.Machine

/-! ### Where an access primitive answers nothing -/

/-- A read or a write of `n` bytes that answers nothing was not inside the memory. -/
theorem State.outside_of_ite_none {s : State} {addr : Word} {n : Nat} {α : Type} {x : α}
    (h : (if s.inBounds addr n then some x else none) = none) : s.memSize < addr.toNat + n := by
  by_contra hin
  simp [State.inBounds_iff.2 (Nat.le_of_not_lt hin)] at h

theorem State.outside_of_memRead8_none {s : State} {addr : Word} (h : s.memRead8 addr = none) :
    s.memSize < addr.toNat + 1 := State.outside_of_ite_none h

theorem State.outside_of_memRead16_none {s : State} {addr : Word} (h : s.memRead16 addr = none) :
    s.memSize < addr.toNat + 2 := State.outside_of_ite_none h

theorem State.outside_of_memRead32_none {s : State} {addr : Word} (h : s.memRead32 addr = none) :
    s.memSize < addr.toNat + 4 := State.outside_of_ite_none h

theorem State.outside_of_memWrite_none {s : State} {addr v : Word} {n : Nat} (h : s.memWrite addr n v = none) :
    s.memSize < addr.toNat + n := State.outside_of_ite_none h

/-! ### What an instruction can do -/

/-- The data access of an instruction: base register, displacement and number of bytes (20_memory R38). -/
def dataAccess : Instr → Option (RegIdx × Word × Nat)
  | .lb _ rs1 imm => some (rs1, imm, 1)
  | .lh _ rs1 imm => some (rs1, imm, 2)
  | .lw _ rs1 imm => some (rs1, imm, 4)
  | .lbu _ rs1 imm => some (rs1, imm, 1)
  | .lhu _ rs1 imm => some (rs1, imm, 2)
  | .sb rs1 _ imm => some (rs1, imm, 1)
  | .sh rs1 _ imm => some (rs1, imm, 2)
  | .sw rs1 _ imm => some (rs1, imm, 4)
  | _ => none

/-- The next pc an instruction commits when it completes (10_state R17). -/
def State.nextPcOf (s : State) : Instr → Word
  | .jal _ imm => s.pcPlus imm
  | .jalr _ rs1 imm => s.jalrTarget rs1 imm
  | .beq rs1 rs2 imm => if cmpEq (s.reg rs1) (s.reg rs2) then s.pcPlus imm else s.nextPc
  | .bne rs1 rs2 imm => if !cmpEq (s.reg rs1) (s.reg rs2) then s.pcPlus imm else s.nextPc
  | .blt rs1 rs2 imm => if cmpLt (s.reg rs1) (s.reg rs2) then s.pcPlus imm else s.nextPc
  | .bge rs1 rs2 imm => if !cmpLt (s.reg rs1) (s.reg rs2) then s.pcPlus imm else s.nextPc
  | .bltu rs1 rs2 imm => if cmpLtu (s.reg rs1) (s.reg rs2) then s.pcPlus imm else s.nextPc
  | .bgeu rs1 rs2 imm => if !cmpLtu (s.reg rs1) (s.reg rs2) then s.pcPlus imm else s.nextPc
  | _ => s.nextPc

/-- The state after `n` bytes of `v` were written at `addr`. -/
def State.withBytes (s : State) (addr : Word) (n : Nat) (v : Word) : State :=
  { s with mem := Memory.writeBytes s.mem addr.toNat (lowBytes v n) }

@[simp] theorem State.withBytes_mem (s : State) (addr : Word) (n : Nat) (v : Word) :
    (s.withBytes addr n v).mem = Memory.writeBytes s.mem addr.toNat (lowBytes v n) := rfl
@[simp] theorem State.withBytes_memSize (s : State) (addr : Word) (n : Nat) (v : Word) :
    (s.withBytes addr n v).memSize = s.memSize := rfl

/-- The five ways an instruction can end. Which value is written is left open: the statements about single
instructions give it. -/
inductive ExecEffect (i : Instr) (s : State) : Host.Outcome State Fault Refusal → Prop where
  /-- the destination register is written -/
  | writesReg (rd : RegIdx) (v : Word) (hrd : destination i = some rd) :
      ExecEffect i s (.next (s.writeBack rd v (s.nextPcOf i)))
  /-- nothing but the pc changes -/
  | movesPc : ExecEffect i s (.next (s.goto (s.nextPcOf i)))
  /-- the bytes of a store are written, all of them inside the memory -/
  | storesBytes (rs1 : RegIdx) (imm : Word) (n : Nat) (v : Word) (hstore : isStore i = true)
      (haccess : dataAccess i = some (rs1, imm, n)) (hin : (s.effAddr rs1 imm).toNat + n ≤ s.memSize) :
      ExecEffect i s (.next ((s.withBytes (s.effAddr rs1 imm) n v).goto (s.nextPcOf i)))
  /-- an ECALL with the exit code in the exit register stops the machine -/
  | exits (hi : i = .ecall) (hcode : s.reg Config.exitReg = Config.exitCode) :
      ExecEffect i s (.next (s.halt.goto (s.nextPcOf i)))
  /-- the data access touches a byte outside the memory -/
  | faults (rs1 : RegIdx) (imm : Word) (n : Nat) (haccess : dataAccess i = some (rs1, imm, n))
      (hout : s.memSize < (s.effAddr rs1 imm).toNat + n) :
      ExecEffect i s (.fault (.memoryFault s.pc (s.effAddr rs1 imm) { s with faulted := true }))

/-- The end of a load is one of the five ways. -/
theorem completeLoad_execEffect {i : Instr} {s : State} {rd rs1 : RegIdx} {imm : Word} {n : Nat}
    {value : Option Word} (hrd : destination i = some rd) (haccess : dataAccess i = some (rs1, imm, n))
    (hpc : s.nextPcOf i = s.nextPc) (hout : value = none → s.memSize < (s.effAddr rs1 imm).toNat + n) :
    ExecEffect i s (completeLoad s rd (s.effAddr rs1 imm) value) := by
  obtain ⟨v, -, heq⟩ | ⟨hnone, heq⟩ := completeLoad_cases s rd (s.effAddr rs1 imm) value
  · rw [heq, ← hpc]; exact .writesReg rd v hrd
  · rw [heq]; exact .faults rs1 imm n haccess (hout hnone)

/-- The end of a store is one of the five ways. -/
theorem completeStore_execEffect {i : Instr} {s : State} {rs1 : RegIdx} {imm : Word} {n : Nat} (v : Word)
    (hstore : isStore i = true) (haccess : dataAccess i = some (rs1, imm, n)) (hpc : s.nextPcOf i = s.nextPc) :
    ExecEffect i s (completeStore s (s.effAddr rs1 imm) (s.memWrite (s.effAddr rs1 imm) n v)) := by
  obtain ⟨u, hsome, heq⟩ | ⟨hnone, heq⟩ :=
    completeStore_cases s (s.effAddr rs1 imm) (s.memWrite (s.effAddr rs1 imm) n v)
  · obtain ⟨hin, rfl⟩ := State.memWrite_some hsome
    rw [heq, ← hpc]; exact .storesBytes rs1 imm n v hstore haccess hin
  · rw [heq]; exact .faults rs1 imm n haccess (State.outside_of_memWrite_none hnone)

/-- ECALL exits or moves the pc. -/
theorem execEcall_execEffect (s : State) : ExecEffect .ecall s (execEcall s) := by
  unfold execEcall
  split
  · next hcode => exact .exits rfl hcode
  · exact .movesPc

/-- Everything an instruction can do: it ends in one of the five ways, and is never refused. -/
theorem exec_execEffect (i : Instr) (s : State) : ExecEffect i s (exec i s) := by
  cases i with
  | beq | bne | blt | bge | bltu | bgeu | unknown => exact .movesPc
  | ecall => exact execEcall_execEffect s
  | lb | lbu =>
    exact completeLoad_execEffect rfl rfl rfl fun h => State.outside_of_memRead8_none (Option.map_eq_none_iff.1 h)
  | lh | lhu =>
    exact completeLoad_execEffect rfl rfl rfl fun h => State.outside_of_memRead16_none (Option.map_eq_none_iff.1 h)
  | lw => exact completeLoad_execEffect rfl rfl rfl State.outside_of_memRead32_none
  | sb | sh | sw => exact completeStore_execEffect _ rfl rfl rfl
  | _ => exact .writesReg _ _ rfl

/-- The ways that answer a next state, read off from the answer. -/
theorem execEffect_of_next {i : Instr} {s t : State} (h : exec i s = .next t) : ExecEffect i s (.next t) :=
  h ▸ exec_execEffect i s

/-- A fault of an instruction is the MemoryFault that leaves the state before with `faulted` set (60_exceptions R203). -/
theorem exec_fault {i : Instr} {s : State} {r : Fault} (h : exec i s = .fault r) :
    ∃ addr, r = .memoryFault s.pc addr { s with faulted := true } := by
  have heffect : ExecEffect i s (.fault r) := h ▸ exec_execEffect i s
  cases heffect
  exact ⟨_, rfl⟩

/-! ### What a step that stops leaves -/

/-- A step that faults reports a MemoryFault of an enabled machine, or is no step at all. -/
theorem step_fault {s : State} {r : Fault} (h : step s = .fault r) :
    (s.enabled = true ∧ ∃ addr, r = .memoryFault s.pc addr { s with faulted := true }) ∨ r = .noStep s := by
  cases henabled : s.enabled with
  | false =>
    rw [step_of_disabled henabled] at h
    cases h
    exact .inr rfl
  | true =>
    refine .inl ⟨rfl, ?_⟩
    cases hfetch : s.fetch with
    | none =>
      rw [step_of_fetch_none henabled hfetch] at h
      cases h
      exact ⟨_, rfl⟩
    | some w => exact exec_fault (step_of_fetch henabled hfetch ▸ h)

theorem State.enabled_iff {s : State} : s.enabled = true ↔ s.running = true ∧ s.faulted = false := by
  simp [State.enabled]

/-! ### The invariant, operation by operation -/

theorem State.Inv.goto {s : State} (h : s.Inv) (p : Word) : (s.goto p).Inv :=
  ⟨h.size_min, h.size_max, h.mem_wf, h.mem_below, h.x0_zero, by simpa using h.halt_code, h.not_both⟩

/-- A running machine may write any register. -/
theorem State.Inv.writeBack {s : State} (h : s.Inv) (hrun : s.running = true) (rd : RegIdx) (v p : Word) :
    (s.writeBack rd v p).Inv where
  size_min := by simpa using h.size_min
  size_max := by simpa using h.size_max
  mem_wf := by simpa using h.mem_wf
  mem_below := by simpa using h.mem_below
  x0_zero := by simpa using h.x0_zero
  halt_code := by simp [hrun]
  not_both := by simp [hrun]

theorem State.Inv.withBytes {s : State} (h : s.Inv) {addr : Word} {n : Nat} (hin : addr.toNat + n ≤ s.memSize)
    (v : Word) : (s.withBytes addr n v).Inv :=
  { h with
    mem_wf := Memory.wf_writeBytes h.mem_wf _ _
    mem_below := by simpa using Memory.below_writeBytes h.mem_below (by simpa using hin) }

/-- A machine that holds the exit code and has not faulted may halt. -/
theorem State.Inv.halt {s : State} (h : s.Inv) (hcode : s.reg Config.exitReg = Config.exitCode)
    (hfaulted : s.faulted = false) : s.halt.Inv :=
  ⟨h.size_min, h.size_max, h.mem_wf, h.mem_below, h.x0_zero, fun _ => by simpa using hcode, .inr hfaulted⟩

/-- A running machine may fault. -/
theorem State.Inv.setFaulted {s : State} (h : s.Inv) (hrun : s.running = true) :
    State.Inv { s with faulted := true } :=
  ⟨h.size_min, h.size_max, h.mem_wf, h.mem_below, h.x0_zero, h.halt_code, .inl hrun⟩

/-- A completed instruction of an enabled machine keeps the invariant. -/
theorem exec_keeps_inv {i : Instr} {s t : State} (hinv : s.Inv) (henabled : s.enabled = true)
    (h : exec i s = .next t) : t.Inv := by
  obtain ⟨hrun, hfaulted⟩ := State.enabled_iff.1 henabled
  cases execEffect_of_next h with
  | writesReg rd v => exact hinv.writeBack hrun rd v _
  | movesPc => exact hinv.goto _
  | storesBytes rs1 imm n v _ _ hin => exact (hinv.withBytes hin v).goto _
  | exits _ hcode => exact (hinv.halt hcode hfaulted).goto _

/-- Settles O3: a next state is one of the ways an enabled machine's instruction can end, a MemoryFault sets `faulted`
of an enabled machine, and where no step is taken the state is held. -/
theorem stepKeepsInvariant : Obligations.StepKeepsInvariant := by
  intro s hinv
  refine ⟨fun t h => ?next, fun pc addr t h => ?memoryFault, fun t h => ?noStep⟩
  case next =>
    obtain ⟨henabled, w, -, hexec⟩ := step_next h
    exact exec_keeps_inv hinv henabled hexec
  case memoryFault =>
    obtain ⟨henabled, addr', heq⟩ | heq := step_fault h
    · cases heq
      exact hinv.setFaulted (State.enabled_iff.1 henabled).1
    · cases heq
  case noStep =>
    obtain ⟨-, addr, heq⟩ | heq := step_fault h
    · cases heq
    · cases heq
      exact hinv

/-! ### The pc and the status -/

/-- A completed instruction commits its next pc (10_state R17). -/
theorem exec_next_pc {i : Instr} {s t : State} (h : exec i s = .next t) : t.pc = s.nextPcOf i := by
  cases execEffect_of_next h <;> rfl

/-- Settles O46: the pc of a completed instruction is `State.nextPcOf`, whose branch conditions are the comparator's
bits, and a MemoryFault leaves every field but `faulted`. -/
theorem nextPcOfEveryInstruction : Obligations.NextPcOfEveryInstruction := by
  intro i s
  refine ⟨fun t h => ?completed, fun pc addr t h => ?faulted⟩
  case completed =>
    rw [exec_next_pc h]
    cases i with
    | beq | bne => simp [State.nextPcOf, State.pcPlus, State.nextPc, cmpEq]
    | blt | bge | bltu | bgeu =>
      simp only [State.nextPcOf, State.pcPlus, State.nextPc, cmpLt, cmpLtu, Bool.not_eq_true', decide_eq_true_eq,
        decide_eq_false_iff_not, ite_not]
    | _ => rfl
  case faulted =>
    obtain ⟨addr', heq⟩ := exec_fault h
    cases heq
    rfl

/-- Settles O47: of the ways to complete only the exit touches `running`, and none touches `faulted` or the size. -/
theorem runningChangesOnlyByExitEcall : Obligations.RunningChangesOnlyByExitEcall := by
  intro i s t h
  cases execEffect_of_next h with
  | writesReg => simp
  | movesPc | storesBytes => exact ⟨rfl, rfl, .inl rfl⟩
  | exits hi hcode => exact ⟨rfl, rfl, .inr ⟨hi, hcode, rfl⟩⟩

/-! ### Memory and the registers -/

/-- Writing bytes leaves every byte outside them alone. -/
theorem State.read_withBytes_outside (s : State) {addr : Word} {n a : Nat} (v : Word)
    (h : a < addr.toNat ∨ addr.toNat + n ≤ a) :
    Memory.read (s.withBytes addr n v).mem a = Memory.read s.mem a :=
  Memory.read_writeBytes_outside s.mem _ (by simpa using h)

/-- A completed instruction leaves memory alone, or is a store that wrote its bytes. -/
theorem exec_mem {i : Instr} {s t : State} (h : exec i s = .next t) :
    t.mem = s.mem ∨ ∃ rs1 imm n v, isStore i = true ∧ dataAccess i = some (rs1, imm, n) ∧
      t.mem = (s.withBytes (s.effAddr rs1 imm) n v).mem := by
  cases execEffect_of_next h with
  | writesReg => exact .inl (State.writeBack_mem ..)
  | movesPc | exits => exact .inl rfl
  | storesBytes rs1 imm n v hstore haccess => exact .inr ⟨rs1, imm, n, v, hstore, haccess, rfl⟩

theorem dataAccess_of_store {i : Instr} {rs1 rs2 : RegIdx} {imm : Word} {n : Nat}
    (h : (i = .sb rs1 rs2 imm ∧ n = 1) ∨ (i = .sh rs1 rs2 imm ∧ n = 2) ∨ (i = .sw rs1 rs2 imm ∧ n = 4)) :
    dataAccess i = some (rs1, imm, n) := by
  obtain ⟨rfl, rfl⟩ | ⟨rfl, rfl⟩ | ⟨rfl, rfl⟩ := h <;> rfl

/-- Settles O49: memory is as before, or the instruction is a store and the bytes written are those of its access. -/
theorem onlyStoresChangeMemory : Obligations.OnlyStoresChangeMemory := by
  intro i s t h
  obtain hmem | ⟨rs1, imm, n, v, hstore, haccess, hmem⟩ := exec_mem h
  · simp [hmem]
  · refine ⟨fun hno => absurd hstore (by simp [hno]), fun rs1' rs2' imm' n' hi a ha => ?_⟩
    obtain ⟨rfl, rfl, rfl⟩ : rs1 = rs1' ∧ imm = imm' ∧ n = n' := by
      simpa [haccess] using dataAccess_of_store hi
    rw [hmem, State.read_withBytes_outside s v ha]

/-- Settles O50: the one way to complete that writes a register writes the destination. -/
theorem oneDestinationRegister : Obligations.OneDestinationRegister := by
  refine ⟨fun i s t h r hr => ?_, State.reg_zero⟩
  cases execEffect_of_next h with
  | writesReg rd v hrd => exact State.reg_writeBack_of_ne s v _ fun heq => hr (heq ▸ hrd)
  | movesPc | storesBytes | exits => exact State.reg_congr rfl r

end Sys2Proof.Machine

/-! The access primitives: what a read answers byte by byte, what a write leaves, and that a canonical memory is
determined by its bytes; then what a load or a fetch sees of the bytes a store has just written. -/

namespace Sys2Proof.Machine

/-! ### A value and its bytes -/

/-- Two values of `n` bytes with the same bytes are equal. -/
theorem bitVec_eq_of_bytes {n : Nat} {v w : BitVec (8 * n)}
    (h : ∀ k, k < n → v.extractLsb' (8 * k) 8 = w.extractLsb' (8 * k) 8) : v = w := by
  refine BitVec.eq_of_getLsbD_eq fun i hi => ?_
  have hbyte := congrArg (·.getLsbD (i % 8)) (h (i / 8) (by omega))
  simpa [Nat.mod_lt, Nat.div_add_mod] using hbyte

/-- Above a lowest byte `lo`, byte `k + 1` is byte `k` of the rest. -/
theorem append_byte_succ {n : Nat} (hi : BitVec n) (lo : Byte) (k : Nat) :
    (hi ++ lo).extractLsb' (8 * (k + 1)) 8 = hi.extractLsb' (8 * k) 8 :=
  BitVec.extractLsb'_append_eq_of_le (by omega)

/-- Byte `k` of the halfword at `a` is the byte at `a + k` (20_memory R33). -/
theorem Memory.read16_byte (m : List Host.Cell) (a : Nat) {k : Nat} (hk : k < 2) :
    (Memory.read16 m a).extractLsb' (8 * k) 8 = Memory.read m (a + k) := by
  match k with
  | 0 => exact BitVec.extractLsb'_append_eq_right
  | 1 => exact BitVec.extractLsb'_append_eq_left

/-- Byte `k` of the word at `a` is the byte at `a + k` (20_memory R33). -/
theorem Memory.read32_byte (m : List Host.Cell) (a : Nat) {k : Nat} (hk : k < 4) :
    (Memory.read32 m a).extractLsb' (8 * k) 8 = Memory.read m (a + k) := by
  match k with
  | 0 => exact BitVec.extractLsb'_append_eq_right
  | 1 => exact (append_byte_succ _ _ 0).trans BitVec.extractLsb'_append_eq_right
  | 2 =>
    exact (append_byte_succ _ _ 1).trans ((append_byte_succ _ _ 0).trans BitVec.extractLsb'_append_eq_right)
  | 3 =>
    exact (append_byte_succ _ _ 2).trans ((append_byte_succ _ _ 1).trans BitVec.extractLsb'_append_eq_left)

/-- Settles O23: inside the memory the value read has the memory's bytes, outside there is none. -/
theorem memReadIsLittleEndianAndBounded : Obligations.MemReadIsLittleEndianAndBounded := fun s addr =>
  ⟨State.memRead8_of_inBounds, State.memRead8_of_outside,
    fun h => ⟨_, State.memRead16_of_inBounds h, fun _ => Memory.read16_byte s.mem addr.toNat⟩,
    State.memRead16_of_outside,
    fun h => ⟨_, State.memRead32_of_inBounds h, fun _ => Memory.read32_byte s.mem addr.toNat⟩,
    State.memRead32_of_outside⟩

/-! ### Writes and the bounds check -/

/-- On a canonical memory, writing bytes has the effect of a store that leaves the pc. -/
theorem State.withBytes_storeEffect {s : State} (hm : Memory.wf s.mem = true) (addr : Word) (n : Nat) (v : Word) :
    StoreEffect s (s.withBytes addr n v) addr n v s.pc :=
  { completeStore_storeEffect hm addr v n with pc := rfl }

/-- Settles O24: a write inside the memory is the state with the bytes written, one outside answers nothing. -/
theorem memWriteIsAllOrNothing : Obligations.MemWriteIsAllOrNothing := fun _ addr v n hm _ =>
  ⟨fun hin => ⟨_, State.memWrite_of_inBounds hin v, State.withBytes_storeEffect hm addr n v⟩,
    fun hout => State.memWrite_of_outside hout v⟩

/-- Settles O25: with bit 31 set the address alone is at least the greatest size. -/
theorem highAddressesOutsideEveryMemory : Obligations.HighAddressesOutsideEveryMemory := by
  intro s addr n hsize hbit hn
  have haddr : 2 ^ 31 ≤ addr.toNat := Nat.ge_two_pow_of_testBit hbit
  simp only [Config.maxMemSize] at hsize
  refine decide_eq_false ?_
  omega

/-! ### The canonical form is unique -/

/-- A listed byte is not the cleared byte, so a canonical list that reads the same starts no later. -/
theorem Memory.first_le_of_read_eq {lo lo' a b : Nat} {u v : Byte} {m m' : List Host.Cell}
    (h : Memory.wfFrom lo ((a, u) :: m) = true) (h' : Memory.wfFrom lo' ((b, v) :: m') = true)
    (hread : ∀ x, Memory.read ((a, u) :: m) x = Memory.read ((b, v) :: m') x) : b ≤ a := by
  obtain ⟨-, hu, -⟩ := Memory.wfFrom_cons.1 h
  obtain ⟨-, hv, hm'⟩ := Memory.wfFrom_cons.1 h'
  by_contra hlt
  have hcleared : Memory.read ((b, v) :: m') a = Config.clearedByte :=
    Memory.read_below_first (Memory.wfFrom_cons.2 ⟨le_refl b, hv, hm'⟩) (by omega)
  exact hu (by simpa [Memory.read] using (hread a).trans hcleared)

/-- A canonical list that reads cleared everywhere is empty. -/
theorem Memory.eq_nil_of_read_cleared {lo : Nat} {m : List Host.Cell} (h : Memory.wfFrom lo m = true)
    (hread : ∀ x, Memory.read m x = Config.clearedByte) : m = [] := by
  cases m with
  | nil => rfl
  | cons c m =>
    obtain ⟨-, hc, -⟩ := Memory.wfFrom_cons.1 h
    exact absurd (by simpa [Memory.read] using hread c.1) hc

/-- Canonical lists with the same bytes are equal, whatever their lower bounds. -/
theorem Memory.wfFrom_ext {lo lo' : Nat} {m m' : List Host.Cell} (h : Memory.wfFrom lo m = true)
    (h' : Memory.wfFrom lo' m' = true) (hread : ∀ x, Memory.read m x = Memory.read m' x) : m = m' := by
  induction m generalizing m' lo lo' with
  | nil => exact (Memory.eq_nil_of_read_cleared h' fun x => (hread x).symm).symm
  | cons c m ih =>
    obtain ⟨a, u⟩ := c
    cases m' with
    | nil => exact Memory.eq_nil_of_read_cleared h hread
    | cons c' m' =>
      obtain ⟨b, v⟩ := c'
      obtain rfl : a = b := le_antisymm (Memory.first_le_of_read_eq h' h fun x => (hread x).symm)
        (Memory.first_le_of_read_eq h h' hread)
      obtain rfl : u = v := by simpa [Memory.read] using hread a
      obtain ⟨-, -, hm⟩ := Memory.wfFrom_cons.1 h
      obtain ⟨-, -, hm'⟩ := Memory.wfFrom_cons.1 h'
      have htail : ∀ x, Memory.read m x = Memory.read m' x := by
        intro x
        by_cases hx : x < a + 1
        · rw [Memory.read_below_first hm hx, Memory.read_below_first hm' hx]
        · have hne : a ≠ x := by omega
          simpa [Memory.read, hne] using hread x
      rw [ih hm hm' htail]

/-- Settles O26: `Memory.wf` is the canonical form from address 0 on. -/
theorem equalMemoriesAreEqualLists : Obligations.EqualMemoriesAreEqualLists := fun _ _ => Memory.wfFrom_ext

/-! ### Reading the bytes of a store -/

/-- The byte a store of one byte has written. -/
theorem StoreEffect.read8 {s t : State} {ea v p : Word} (h : StoreEffect s t ea 1 v p) :
    Memory.read t.mem ea.toNat = v.setWidth 8 :=
  (h.stored 0 (by omega)).trans (BitVec.setWidth_eq_extractLsb' (by omega)).symm

/-- The halfword a store of two bytes has written. -/
theorem StoreEffect.read16 {s t : State} {ea v p : Word} (h : StoreEffect s t ea 2 v p) :
    Memory.read16 t.mem ea.toNat = v.setWidth 16 := by
  refine bitVec_eq_of_bytes (n := 2) fun k hk => ?_
  rw [Memory.read16_byte t.mem ea.toNat hk, h.stored k hk, BitVec.extractLsb'_setWidth_of_le (by omega)]

/-- The word a store of four bytes has written. -/
theorem StoreEffect.read32 {s t : State} {ea v p : Word} (h : StoreEffect s t ea 4 v p) :
    Memory.read32 t.mem ea.toNat = v :=
  bitVec_eq_of_bytes (n := 4) fun k hk => (Memory.read32_byte t.mem ea.toNat hk).trans (h.stored k hk)

/-- A store that answers a next state was inside the memory and had the effect of a store. -/
theorem completeStore_memWrite_next {s t : State} {ea v : Word} {n : Nat} (hm : Memory.wf s.mem = true)
    (h : completeStore s ea (s.memWrite ea n v) = .next t) :
    ea.toNat + n ≤ t.memSize ∧ StoreEffect s t ea n v s.nextPc := by
  obtain ⟨u, hwritten, rfl⟩ := completeStore_next h
  obtain ⟨hin, rfl⟩ := State.memWrite_some hwritten
  exact ⟨hin, completeStore_storeEffect hm ea v n⟩

/-- A load that has a value completes, and a destination other than `x[0]` holds the value. -/
theorem completeLoad_reg {t : State} {rd : RegIdx} (hrd : rd ≠ 0#5) (ea : Word) {value : Option Word} {v : Word}
    (hvalue : value = some v) : ∃ u, completeLoad t rd ea value = .next u ∧ u.reg rd = v := by
  subst hvalue
  exact ⟨_, rfl, by simp [hrd]⟩

/-- Settles O42: the bytes a store wrote are those the load at the same address reads. -/
theorem loadAfterStore : Obligations.LoadAfterStore := by
  intro s rs1 rs2 rb rd imm imm' hm hrd
  refine ⟨fun t h ha => ?lw, fun t h ha => ?lh, fun t h ha => ?lhu, fun t h ha => ?lb, fun t h ha => ?lbu⟩
  all_goals
    obtain ⟨hin, heffect⟩ := completeStore_memWrite_next hm h
    refine completeLoad_reg hrd _ ?_
    rw [show t.effAddr rb imm' = s.effAddr rs1 imm from ha]
  case lw => rw [State.memRead32_of_inBounds hin, heffect.read32]
  case lh | lhu => rw [State.memRead16_of_inBounds hin, heffect.read16]; rfl
  case lb | lbu => rw [State.memRead8_of_inBounds hin, heffect.read8]; rfl

/-! ### Running the bytes of a store -/

/-- A word stored at the pc an enabled machine goes on from is the word its next step runs (20_memory R44). -/
theorem StoreEffect.step_eq {s t : State} {ea v p : Word} (h : StoreEffect s t ea 4 v p)
    (hin : ea.toNat + 4 ≤ t.memSize) (hpc : p = ea) (hrun : s.running = true) (hfaulted : s.faulted = false) :
    step t = exec (decode v) t := by
  have hfetch : t.fetch = some v := by
    rw [State.fetch, h.pc, hpc, State.memRead32_of_inBounds hin, h.read32]
  exact step_of_fetch (State.enabled_iff.2 ⟨h.running.trans hrun, h.faulted.trans hfaulted⟩) hfetch

/-- Placing a word at a pc inside the memory writes its four bytes. -/
theorem State.withFetchWord_eq {s : State} (hin : s.pc.toNat + 4 ≤ s.memSize) (w : Nat) :
    s.withFetchWord 32 w = s.withBytes s.pc 4 (BitVec.ofNat 32 w) := by
  have hword : BitVec.ofNat 32 (w % 2 ^ 32) = BitVec.ofNat 32 w := BitVec.eq_of_toNat_eq (by simp)
  rw [State.withFetchWord, hword, State.memWrite_of_inBounds hin]
  rfl

/-- Settles O20: placing the word is a store at the pc. -/
theorem placedWordIsRunNext : Obligations.PlacedWordIsRunNext := by
  intro s w hm hrun hfaulted hin
  rw [State.withFetchWord_eq hin]
  have heffect := State.withBytes_storeEffect hm s.pc 4 (BitVec.ofNat 32 w)
  exact ⟨heffect.step_eq hin rfl hrun hfaulted, heffect⟩

/-- Settles O43: the store goes on at the next pc, which is the address it wrote. -/
theorem storeIntoNextInstruction : Obligations.StoreIntoNextInstruction := by
  intro s t rs1 rs2 imm hm hrun hfaulted haddr h
  obtain ⟨hin, heffect⟩ := completeStore_memWrite_next hm h
  exact ⟨heffect.pc, heffect.step_eq hin haddr.symm hrun hfaulted⟩

end Sys2Proof.Machine

/-! What the decoder makes of a word: its fields, the operation its codes resolve to, the same operation found in the
opcode table, and the operands, from which the statements about single families of words follow. -/

namespace Sys2Proof

open Machine

/-! ### The fields of a word -/

/-- The six fields of a word, laid out as the R layout does, are the word (30_encoding R52). -/
theorem encodeR_fields (w : Word) :
    encodeR (w.extractLsb' 25 7) (w.extractLsb' 20 5) (w.extractLsb' 15 5) (w.extractLsb' 12 3) (w.extractLsb' 7 5)
      (w.extractLsb' 0 7) = w := by
  refine BitVec.eq_of_getLsbD_eq fun k hk => ?_
  rw [encodeR_getLsbD _ _ _ _ _ _ hk]
  simp only [BitVec.getLsbD_extractLsb']
  interval_cases k <;> simp

/-- Settles O8: the R layout puts the fields side by side. -/
theorem fieldsCoverTheWord : Obligations.FieldsCoverTheWord := fun w => ⟨rfl, encodeR_fields w⟩

/-- Two words are equal exactly when their codes and their register fields are. -/
theorem word_eq_iff_fields {w v : Word} : w = v ↔
    w.extractLsb' 0 7 = v.extractLsb' 0 7 ∧ w.extractLsb' 12 3 = v.extractLsb' 12 3 ∧
    w.extractLsb' 25 7 = v.extractLsb' 25 7 ∧ w.extractLsb' 7 5 = v.extractLsb' 7 5 ∧
    w.extractLsb' 15 5 = v.extractLsb' 15 5 ∧ w.extractLsb' 20 5 = v.extractLsb' 20 5 := by
  refine ⟨by rintro rfl; simp, fun ⟨hopcode, hf3, hf7, hrd, hrs1, hrs2⟩ => ?_⟩
  rw [← encodeR_fields w, ← encodeR_fields v, hopcode, hf3, hf7, hrd, hrs1, hrs2]

/-! ### The operation the codes resolve to -/

/-- Every nonzero funct7 resolves as 1 does: the decoder asks only whether it is zero (30_encoding R64). -/
theorem resolve_of_ne_zero {f7 : BitVec 7} (h : f7 ≠ 0#7) (opcode : BitVec 7) (f3 : BitVec 3) :
    resolve opcode f3 f7 = resolve opcode f3 1#7 := by
  have hsame : (f7 != 0#7) = (1#7 != 0#7) := by simpa using h
  simp only [resolve, hsame]

/-- So each of the 128 values of funct7 resolves as 0 or as 1 does. -/
theorem resolve_eq_of_alt (opcode : BitVec 7) (f3 : BitVec 3) (f7 : BitVec 7) :
    resolve opcode f3 f7 = resolve opcode f3 (if f7 != 0#7 then 1#7 else 0#7) := by
  by_cases hzero : f7 = 0#7
  · simp [hzero]
  · rw [resolve_of_ne_zero hzero, if_pos (bne_iff_ne.2 hzero)]

/-- An opcode of no family resolves to the sentinel (30_encoding R67 (a)). -/
theorem resolve_of_not_mem_familyOpcodes {opcode : BitVec 7} (h : opcode ∉ familyOpcodes) (f3 : BitVec 3)
    (f7 : BitVec 7) : resolve opcode f3 f7 = .unknown := by
  simp only [familyOpcodes, List.mem_cons, List.not_mem_nil, or_false, not_or] at h
  unfold resolve
  split <;> simp_all

/-! ### The same operation in the opcode table -/

/-- Whether a row is one of an opcode, a funct3 and the answer to "is funct7 nonzero" (30_encoding R68). -/
def OpcodeRow.namesCodes (opcode : BitVec 7) (f3 : BitVec 3) (alt : Bool) (r : OpcodeRow) : Bool :=
  opcode &&& r.mask.extractLsb' 0 7 == r.pattern.extractLsb' 0 7 &&
  f3 &&& r.mask.extractLsb' 12 3 == r.pattern.extractLsb' 12 3 &&
  (r.mask.extractLsb' 25 7 == 0#7 || !alt)

/-- No row looks at a register field, and one that looks at funct7 asks for zero. -/
theorem opcodeTable_fields : ∀ r ∈ opcodeTable,
    (r.mask.extractLsb' 7 5 = 0#5 ∧ r.pattern.extractLsb' 7 5 = 0#5) ∧
    (r.mask.extractLsb' 15 5 = 0#5 ∧ r.pattern.extractLsb' 15 5 = 0#5) ∧
    (r.mask.extractLsb' 20 5 = 0#5 ∧ r.pattern.extractLsb' 20 5 = 0#5) ∧
    (r.mask.extractLsb' 25 7 = 0#7 ∨ r.mask.extractLsb' 25 7 = 127#7) ∧ r.pattern.extractLsb' 25 7 = 0#7 := by
  decide

/-- A word is of a row of the table exactly when the row names its codes. -/
theorem matches_eq_namesCodes (w : Word) {r : OpcodeRow} (hr : r ∈ opcodeTable) : (w &&& r.mask == r.pattern) =
    r.namesCodes (w.extractLsb' 0 7) (w.extractLsb' 12 3) (w.extractLsb' 25 7 != 0#7) := by
  obtain ⟨⟨hrd, hrd'⟩, ⟨hrs1, hrs1'⟩, ⟨hrs2, hrs2'⟩, hmask, hf7⟩ := opcodeTable_fields r hr
  have hall : w.extractLsb' 25 7 &&& 127#7 = w.extractLsb' 25 7 := BitVec.and_allOnes
  rw [Bool.eq_iff_iff, beq_iff_eq, word_eq_iff_fields]
  obtain hmask | hmask := hmask <;>
    simp [OpcodeRow.namesCodes, BitVec.extractLsb'_and, and_assoc, hrd, hrd', hrs1, hrs1', hrs2, hrs2', hmask, hf7,
      hall]

/-- The first row that names the codes of a family is the row of their operation. -/
theorem find?_namesCodes_of_mem_familyOpcodes : ∀ opcode ∈ familyOpcodes, ∀ f3 : BitVec 3, ∀ alt : Bool,
    (opcodeTable.find? (OpcodeRow.namesCodes opcode f3 alt)).map (·.op) =
      some (resolve opcode f3 (if alt then 1#7 else 0#7)) := by
  decide

/-- For an opcode of no family the catch-all row is the first. -/
theorem find?_namesCodes_of_not_mem_familyOpcodes {opcode : BitVec 7} (h : opcode ∉ familyOpcodes) (f3 : BitVec 3)
    (alt : Bool) : (opcodeTable.find? (OpcodeRow.namesCodes opcode f3 alt)).map (·.op) = some .unknown := by
  have hall : opcode &&& 127#7 = opcode := BitVec.and_allOnes
  simp only [familyOpcodes, List.mem_cons, List.not_mem_nil, or_false, not_or] at h
  simp [opcodeTable, opcodeRowsControlMemory, opcodeRowsAlu, OpcodeRow.namesCodes, hall, h]

/-- The first row that matches a word names the operation the decoder resolves. -/
theorem opcodeTableLookup_eq (w : Word) : opcodeTableLookup w = some (decodeFields w).op := by
  rw [opcodeTableLookup, List.find?_congr fun r hr => matches_eq_namesCodes w hr]
  by_cases hfamily : w.extractLsb' 0 7 ∈ familyOpcodes
  · exact (find?_namesCodes_of_mem_familyOpcodes _ hfamily _ _).trans (congrArg some (resolve_eq_of_alt ..).symm)
  · exact (find?_namesCodes_of_not_mem_familyOpcodes hfamily _ _).trans
      (congrArg some (resolve_of_not_mem_familyOpcodes hfamily ..).symm)

@[simp] theorem DecodedInstruction.toInstr_op (d : DecodedInstruction) : d.toInstr.op = d.op := by
  rw [toInstr]
  split <;> simp [Instr.op, *]

/-- Settles O7: the table is read through the codes of the word. -/
theorem decoderAgreesWithOpcodeTable : Obligations.DecoderAgreesWithOpcodeTable :=
  fun w => ⟨opcodeTableLookup_eq w, (decodeFields w).toInstr_op⟩

/-! ### The sentinel -/

theorem decodeFields_op_of_decode_unknown {w v : Word} (h : decode w = .unknown v) :
    (decodeFields w).op = .unknown := by
  rw [← DecodedInstruction.toInstr_op, ← decode, h, Instr.op]

/-- A word that resolves to the sentinel decodes to it, and is the word it carries. -/
theorem decode_of_op_unknown {w : Word} (h : (decodeFields w).op = .unknown) : decode w = .unknown w := by
  rw [decode, DecodedInstruction.toInstr, h]
  rfl

/-- The codes of a family that resolve to the sentinel: the cases (b) to (d) of 30_encoding R67. -/
theorem resolve_unknown_of_mem_familyOpcodes : ∀ opcode ∈ familyOpcodes, ∀ f3 : BitVec 3, ∀ alt : Bool,
    resolve opcode f3 (if alt then 1#7 else 0#7) = .unknown →
      (opcode = 0x63#7 ∧ f3 ∈ [0b010#3, 0b011#3]) ∨ (opcode = 0x03#7 ∧ f3 ∈ [0b011#3, 0b110#3, 0b111#3]) ∨
      (opcode = 0x23#7 ∧ f3 ∈ [0b011#3, 0b100#3, 0b101#3, 0b110#3, 0b111#3]) := by
  decide

/-- The converse of `isUnknownWord_resolve`. -/
theorem isUnknownWord_of_op {w : Word} (h : (decodeFields w).op = .unknown) : isUnknownWord w = true := by
  by_cases hfamily : w.extractLsb' 0 7 ∈ familyOpcodes
  · have hcases := resolve_unknown_of_mem_familyOpcodes _ hfamily _ _ ((resolve_eq_of_alt ..).symm.trans h)
    simpa [isUnknownWord, hfamily, or_assoc] using hcases
  · simp [isUnknownWord, hfamily]

/-- The sentinel decodes from the words no row names, and from them only. -/
theorem decode_eq_unknown_iff {w : Word} : decode w = .unknown w ↔ isUnknownWord w = true :=
  ⟨fun h => isUnknownWord_of_op (decodeFields_op_of_decode_unknown h),
    fun h => decode_of_op_unknown (isUnknownWord_resolve h)⟩

/-- Settles O13: the cases are those of `isUnknownWord`. -/
theorem unknownWordsExactly : Obligations.UnknownWordsExactly := by
  refine fun w => ⟨fun v h => ?_, ?_⟩
  · have hw := decode_of_op_unknown (decodeFields_op_of_decode_unknown h)
    exact Instr.unknown.inj (h.symm.trans hw)
  · rw [decode_eq_unknown_iff]
    simp [isUnknownWord, familyOpcodes, HasCodes, and_or_left, or_assoc]

/-! ### The operands of a word of known codes -/

/-- Settles O9: the mux has one branch per opcode it names. -/
theorem immediateFormatByOpcodeAlone : Obligations.ImmediateFormatByOpcodeAlone := by
  intro w
  simp only [decodeFields]
  generalize w.extractLsb' 0 7 = opcode
  unfold formatOf
  split <;> simp_all [immediate]

/-- With the opcode and funct3 known, only the operation's test of funct7 is left open. -/
theorem decode_of_codes {w : Word} {opcode : BitVec 7} {f3 : BitVec 3} (h : HasCodes w opcode f3) :
    decode w = { decodeFields w with
      imm := immediate (formatOf opcode) w, op := resolve opcode f3 (w.extractLsb' 25 7) }.toInstr := by
  obtain ⟨rfl, rfl⟩ := h
  rfl

/-- Settles O14: funct7 resolves as 0 or as 1. -/
theorem alternateFormByNonzeroFunct7 : Obligations.AlternateFormByNonzeroFunct7 := by
  intro w
  refine ⟨fun h => ?_, fun h => ?_, fun h => ?_⟩
  all_goals
    rw [decode_of_codes h]
    split
    next hzero => rw [hzero]; rfl
    next hnonzero => rw [resolve_of_ne_zero hnonzero]; rfl

/-- Settles O15: none of these codes has an alternate form. -/
theorem operandsOfRegisterAndBranchWords : Obligations.OperandsOfRegisterAndBranchWords := by
  intro w
  refine ⟨?_, ?_, ?_, ?_, ?_, ?_, ?_, ?_, ?_, ?_, ?_, ?_, ?_, ?_, ?_, ?_, ?_, ?_, ?_⟩
  all_goals exact decode_of_codes

end Sys2Proof

/-! The five immediates: their bits, their ranges, and the immediate and the instruction read back from an encoding. -/

namespace Sys2Proof

/-! ### The bits of an immediate -/

/-- The bits of the I immediate (30_encoding R54). -/
theorem immI_getLsbD (w : Word) {k : Nat} (hk : k < 32) :
    (immI w).getLsbD k = if k < 12 then w.getLsbD (20 + k) else w.getLsbD 31 := by
  simp only [immI, BitVec.getLsbD_signExtend, BitVec.msb_eq_getLsbD_last, BitVec.getLsbD_extractLsb']
  interval_cases k <;> simp

/-- The bits of the S immediate (30_encoding R55). -/
theorem immS_getLsbD (w : Word) {k : Nat} (hk : k < 32) : (immS w).getLsbD k =
    if k < 5 then w.getLsbD (7 + k)
    else if k < 12 then w.getLsbD (20 + k)
    else w.getLsbD 31 := by
  simp only [immS, BitVec.getLsbD_signExtend, BitVec.msb_eq_getLsbD_last, BitVec.getLsbD_append,
    BitVec.getLsbD_extractLsb']
  interval_cases k <;> simp

/-- The bits of the B immediate (30_encoding R56). -/
theorem immB_getLsbD (w : Word) {k : Nat} (hk : k < 32) : (immB w).getLsbD k =
    if k = 0 then false
    else if k < 5 then w.getLsbD (7 + k)
    else if k < 11 then w.getLsbD (20 + k)
    else if k = 11 then w.getLsbD 7
    else w.getLsbD 31 := by
  simp only [immB, BitVec.getLsbD_signExtend, BitVec.msb_eq_getLsbD_last, BitVec.getLsbD_append,
    BitVec.getLsbD_extractLsb']
  interval_cases k <;> simp

/-- The bits of the U immediate (30_encoding R57). -/
theorem immU_getLsbD (w : Word) {k : Nat} (hk : k < 32) :
    (immU w).getLsbD k = if k < 12 then false else w.getLsbD k := by
  simp only [immU, BitVec.getLsbD_append, BitVec.getLsbD_extractLsb']
  interval_cases k <;> simp

/-- The bits of the J immediate (30_encoding R58). -/
theorem immJ_getLsbD (w : Word) {k : Nat} (hk : k < 32) : (immJ w).getLsbD k =
    if k = 0 then false
    else if k < 11 then w.getLsbD (20 + k)
    else if k = 11 then w.getLsbD 20
    else if k < 20 then w.getLsbD k
    else w.getLsbD 31 := by
  simp only [immJ, BitVec.getLsbD_signExtend, BitVec.msb_eq_getLsbD_last, BitVec.getLsbD_append,
    BitVec.getLsbD_extractLsb']
  interval_cases k <;> simp

/-! ### The range of an immediate -/

/-- The range of 12 bits, sign-extended. -/
theorem toInt_signExtend12_range (x : BitVec 12) :
    -2048 ≤ (x.signExtend 32).toInt ∧ (x.signExtend 32).toInt ≤ 2047 := by
  rw [BitVec.toInt_signExtend_of_le (by omega)]
  exact ⟨BitVec.le_toInt x, Int.le_of_lt_add_one BitVec.toInt_lt⟩

/-- An immediate whose lowest bit is a zero put behind `x` is twice `x`. -/
theorem toInt_signExtend_append_zero {n : Nat} (x : BitVec n) (hn : n + 1 ≤ 32) :
    ((x ++ 0#1).signExtend 32).toInt = 2 * x.toInt := by
  rw [BitVec.toInt_signExtend_of_le hn, BitVec.toInt_append_zero, pow_one]

theorem immB_range (w : Word) : -4096 ≤ (immB w).toInt ∧ (immB w).toInt ≤ 4094 := by
  obtain ⟨x, hx⟩ : ∃ x : BitVec 12, immB w = (x ++ 0#1).signExtend 32 := ⟨_, rfl⟩
  have hlow : -2048 ≤ x.toInt := BitVec.le_toInt x
  have hhigh : x.toInt < 2048 := BitVec.toInt_lt
  rw [hx, toInt_signExtend_append_zero x (by omega)]
  omega

theorem immJ_range (w : Word) : -1048576 ≤ (immJ w).toInt ∧ (immJ w).toInt ≤ 1048574 := by
  obtain ⟨x, hx⟩ : ∃ x : BitVec 20, immJ w = (x ++ 0#1).signExtend 32 := ⟨_, rfl⟩
  have hlow : -524288 ≤ x.toInt := BitVec.le_toInt x
  have hhigh : x.toInt < 524288 := BitVec.toInt_lt
  rw [hx, toInt_signExtend_append_zero x (by omega)]
  omega

/-- Settles O10, from the bits and the range of 12 bits. -/
theorem immediatesIandSBitByBit : Obligations.ImmediatesIandSBitByBit := by
  refine fun w => ⟨⟨fun k h => ?_, fun k h h' => ?_, toInt_signExtend12_range _⟩,
    fun k h => ?_, fun k h h' => ?_, fun k h h' => ?_, toInt_signExtend12_range _⟩
  all_goals simp (disch := omega) only [immI_getLsbD, immS_getLsbD, if_pos, if_neg]

/-- Settles O11, from the bits and the range of twice 12 or 20 bits. -/
theorem immediatesBandJBitByBit : Obligations.ImmediatesBandJBitByBit := by
  refine fun w => ⟨⟨?_, fun k h h' => ?_, fun k h h' => ?_, ?_, fun k h h' => ?_, immB_range w⟩,
    ?_, fun k h h' => ?_, ?_, fun k h h' => ?_, fun k h h' => ?_, immJ_range w⟩
  all_goals simp (disch := omega) only [immB_getLsbD, immJ_getLsbD, if_pos, if_neg, if_true]

/-- Settles O12, from the bits. -/
theorem immediateUBitByBit : Obligations.ImmediateUBitByBit := by
  refine fun w => ⟨fun k h => ?_, fun k h h' => ?_⟩
  all_goals simp (disch := omega) only [immU_getLsbD, if_pos, if_neg]

/-! ### The immediate of an encoding -/

/-- In a word that is the sign extension of its low `n + 1` bits, every bit from `n` on is bit `n`. -/
theorem getLsbD_min_of_signExtend {n : Nat} {imm : Word} (h : (imm.setWidth (n + 1)).signExtend 32 = imm) {k : Nat}
    (hk : k < 32) : imm.getLsbD (min k n) = imm.getLsbD k := by
  by_cases hkn : k ≤ n
  · rw [min_eq_left hkn]
  · have hsign : imm.getLsbD k = (imm.setWidth (n + 1)).msb := by
      conv_lhs => rw [← h, BitVec.getLsbD_signExtend]
      simp [hk, show ¬ k < n + 1 by omega]
    rw [hsign, min_eq_right (by omega), BitVec.msb_setWidth]
    rfl

theorem immI_encodeI {imm : Word} (h : fitsSext12 imm = true) (rs1 : RegIdx) (f3 : BitVec 3) (rd : RegIdx)
    (op : BitVec 7) : immI (encodeI imm rs1 f3 rd op) = imm := by
  refine BitVec.eq_of_getLsbD_eq fun k hk => ?_
  rw [immI_getLsbD _ hk, ← getLsbD_min_of_signExtend (n := 11) (beq_iff_eq.1 h) hk]
  interval_cases k <;> simp [encodeI_getElem]

theorem immS_encodeS {imm : Word} (h : fitsSext12 imm = true) (rs2 rs1 : RegIdx) (f3 : BitVec 3) (op : BitVec 7) :
    immS (encodeS imm rs2 rs1 f3 op) = imm := by
  refine BitVec.eq_of_getLsbD_eq fun k hk => ?_
  rw [immS_getLsbD _ hk, ← getLsbD_min_of_signExtend (n := 11) (beq_iff_eq.1 h) hk]
  interval_cases k <;> simp [encodeS_getElem]

theorem immB_encodeB {imm : Word} (h : fitsB imm = true) (rs2 rs1 : RegIdx) (f3 : BitVec 3) (op : BitVec 7) :
    immB (encodeB imm rs2 rs1 f3 op) = imm := by
  obtain ⟨hsign, heven⟩ : (imm.setWidth 13).signExtend 32 = imm ∧ imm[0] = false := by simpa [fitsB] using h
  refine BitVec.eq_of_getLsbD_eq fun k hk => ?_
  rw [immB_getLsbD _ hk, ← getLsbD_min_of_signExtend (n := 12) hsign hk]
  interval_cases k <;> simp [encodeB_getElem, heven]

theorem immU_encodeU {imm : Word} (h : fitsU imm = true) (rd : RegIdx) (op : BitVec 7) :
    immU (encodeU imm rd op) = imm := by
  have hzero : imm.setWidth 12 = 0#12 := beq_iff_eq.1 h
  refine BitVec.eq_of_getLsbD_eq fun k hk => ?_
  rw [immU_getLsbD _ hk]
  split
  · next hlow => simpa [hlow] using (congrArg (·.getLsbD k) hzero).symm
  · next hhigh =>
    rw [encodeU_getLsbD _ _ _ hk, if_neg (by omega), if_neg hhigh, Nat.add_sub_cancel' (by omega)]

theorem immJ_encodeJ {imm : Word} (h : fitsJ imm = true) (rd : RegIdx) (op : BitVec 7) :
    immJ (encodeJ imm rd op) = imm := by
  obtain ⟨hsign, heven⟩ : (imm.setWidth 21).signExtend 32 = imm ∧ imm[0] = false := by simpa [fitsJ] using h
  refine BitVec.eq_of_getLsbD_eq fun k hk => ?_
  rw [immJ_getLsbD _ hk, ← getLsbD_min_of_signExtend (n := 20) hsign hk]
  interval_cases k <;> simp [encodeJ_getElem, heven]

/-! ### The instruction of an encoding

For each layout, what `decode` makes of its word, with the operands and the codes that were encoded in the place of the
fields read back. -/

theorem decode_encodeR (f7 : BitVec 7) (rs2 rs1 : RegIdx) (f3 : BitVec 3) (rd : RegIdx) (op : BitVec 7) :
    decode (encodeR f7 rs2 rs1 f3 rd op) =
      { decodeFields (encodeR f7 rs2 rs1 f3 rd op) with rd, rs1, rs2, op := resolve op f3 f7 }.toInstr := by
  simp [decode, decodeFields]

theorem decode_encodeI {imm : Word} (h : fitsSext12 imm = true) (rs1 : RegIdx) (f3 : BitVec 3) (rd : RegIdx)
    {op : BitVec 7} (hop : formatOf op = .I) : decode (encodeI imm rs1 f3 rd op) =
      { decodeFields (encodeI imm rs1 f3 rd op) with
        rd, rs1, imm, op := resolve op f3 (funct7InImm imm) }.toInstr := by
  simp [decode, decodeFields, hop, immediate, immI_encodeI h]

theorem decode_encodeS {imm : Word} (h : fitsSext12 imm = true) (rs2 rs1 : RegIdx) (f3 : BitVec 3) {op : BitVec 7}
    (hop : formatOf op = .S) : decode (encodeS imm rs2 rs1 f3 op) =
      { decodeFields (encodeS imm rs2 rs1 f3 op) with
        rs1, rs2, imm, op := resolve op f3 (decodeFields (encodeS imm rs2 rs1 f3 op)).funct7 }.toInstr := by
  simp [decode, decodeFields, hop, immediate, immS_encodeS h]

theorem decode_encodeB {imm : Word} (h : fitsB imm = true) (rs2 rs1 : RegIdx) (f3 : BitVec 3) {op : BitVec 7}
    (hop : formatOf op = .B) : decode (encodeB imm rs2 rs1 f3 op) =
      { decodeFields (encodeB imm rs2 rs1 f3 op) with
        rs1, rs2, imm, op := resolve op f3 (decodeFields (encodeB imm rs2 rs1 f3 op)).funct7 }.toInstr := by
  simp [decode, decodeFields, hop, immediate, immB_encodeB h]

theorem decode_encodeU {imm : Word} (h : fitsU imm = true) (rd : RegIdx) {op : BitVec 7} (hop : formatOf op = .U) :
    decode (encodeU imm rd op) =
      { decodeFields (encodeU imm rd op) with
        rd, imm
        op := resolve op (decodeFields (encodeU imm rd op)).funct3
          (decodeFields (encodeU imm rd op)).funct7 }.toInstr := by
  simp [decode, decodeFields, hop, immediate, immU_encodeU h]

theorem decode_encodeJ {imm : Word} (h : fitsJ imm = true) (rd : RegIdx) {op : BitVec 7} (hop : formatOf op = .J) :
    decode (encodeJ imm rd op) =
      { decodeFields (encodeJ imm rd op) with
        rd, imm
        op := resolve op (decodeFields (encodeJ imm rd op)).funct3
          (decodeFields (encodeJ imm rd op)).funct7 }.toInstr := by
  simp [decode, decodeFields, hop, immediate, immJ_encodeJ h]

/-- Settles O5: layout by layout; the two shifts whose funct7 lies in the immediate are well-formed by its value. -/
theorem decodeEncodeRoundTrip : Obligations.DecodeEncodeRoundTrip := by
  intro i h
  cases i with
  | lui | auipc => exact decode_encodeU h _ rfl
  | jal => exact decode_encodeJ h _ rfl
  | beq | bne | blt | bge | bltu | bgeu => exact decode_encodeB h _ _ _ rfl
  | sb | sh | sw => exact decode_encodeS h _ _ _ rfl
  | jalr | lb | lh | lw | lbu | lhu | addi | slti | sltiu | xori | ori | andi | slli =>
    exact decode_encodeI h _ _ _ rfl
  | srli rd rs1 imm =>
    obtain ⟨hfits, hzero⟩ : fitsSext12 imm = true ∧ funct7InImm imm = 0#7 := by simpa [Instr.wellFormed] using h
    rw [encode, decode_encodeI hfits _ _ _ rfl, hzero]
    rfl
  | srai rd rs1 imm =>
    obtain ⟨hfits, hnonzero⟩ : fitsSext12 imm = true ∧ funct7InImm imm ≠ 0#7 := by
      simpa [Instr.wellFormed] using h
    rw [encode, decode_encodeI hfits _ _ _ rfl, resolve_of_ne_zero hnonzero]
    rfl
  | add | sub | sll | slt | sltu | xor | srl | sra | or | and => exact decode_encodeR ..
  | ecall => rfl
  | unknown w => exact decode_of_op_unknown (isUnknownWord_resolve h)

end Sys2Proof

/-! Every word decodes to a well-formed instruction, and the spec's sample words. -/

namespace Sys2Proof

/-! ### The immediate of a word is a value of its format -/

theorem setWidth_signExtend_of_le {n m : Nat} (x : BitVec n) (h : n ≤ m) : (x.signExtend m).setWidth n = x := by
  ext k hk
  simp [BitVec.getElem_signExtend, hk, show k < m by omega]

theorem fitsSext12_signExtend (x : BitVec 12) : fitsSext12 (x.signExtend 32) = true := by
  rw [fitsSext12, setWidth_signExtend_of_le x (by omega), beq_self_eq_true]

theorem fitsSext12_immI (w : Word) : fitsSext12 (immI w) = true := fitsSext12_signExtend _

theorem fitsSext12_immS (w : Word) : fitsSext12 (immS w) = true := fitsSext12_signExtend _

theorem fitsB_immB (w : Word) : fitsB (immB w) = true := by
  have hsign : ((immB w).setWidth 13).signExtend 32 = immB w := by
    rw [immB, setWidth_signExtend_of_le _ (by omega)]
  have heven : (immB w).getLsbD 0 = false := immB_getLsbD w (by omega)
  rw [fitsB, hsign, heven, beq_self_eq_true, Bool.not_false, Bool.and_self]

theorem fitsU_immU (w : Word) : fitsU (immU w) = true :=
  beq_iff_eq.2 BitVec.setWidth_append_eq_right

theorem fitsJ_immJ (w : Word) : fitsJ (immJ w) = true := by
  have hsign : ((immJ w).setWidth 21).signExtend 32 = immJ w := by
    rw [immJ, setWidth_signExtend_of_le _ (by omega)]
  have heven : (immJ w).getLsbD 0 = false := immJ_getLsbD w (by omega)
  rw [fitsJ, hsign, heven, beq_self_eq_true, Bool.not_false, Bool.and_self]

/-- The shifts by an immediate find the word's funct7 in their immediate (40_decoder R88). -/
theorem funct7InImm_immI (w : Word) : funct7InImm (immI w) = w.extractLsb' 25 7 := by
  refine BitVec.eq_of_getLsbD_eq fun k hk => ?_
  rw [funct7InImm, BitVec.getLsbD_extractLsb', BitVec.getLsbD_extractLsb', immI_getLsbD w (by omega), if_pos (by omega)]
  simp only [hk, ← Nat.add_assoc]

/-! ### The instruction of a word

One lemma per function that `resolve` hands a family to: what the family's operations ask of the immediate. -/

theorem wellFormed_of_resolveBranch {d : DecodedInstruction} {f3 : BitVec 3} (hop : d.op = resolveBranch f3)
    (hknown : d.op ≠ .unknown) (himm : fitsB d.imm = true) : d.toInstr.wellFormed = true := by
  unfold resolveBranch at hop
  split at hop
  case h_7 => exact absurd hop hknown
  all_goals
    rw [DecodedInstruction.toInstr, hop]
    exact himm

theorem wellFormed_of_resolveLoad {d : DecodedInstruction} {f3 : BitVec 3} (hop : d.op = resolveLoad f3)
    (hknown : d.op ≠ .unknown) (himm : fitsSext12 d.imm = true) : d.toInstr.wellFormed = true := by
  unfold resolveLoad at hop
  split at hop
  case h_6 => exact absurd hop hknown
  all_goals
    rw [DecodedInstruction.toInstr, hop]
    exact himm

theorem wellFormed_of_resolveStore {d : DecodedInstruction} {f3 : BitVec 3} (hop : d.op = resolveStore f3)
    (hknown : d.op ≠ .unknown) (himm : fitsSext12 d.imm = true) : d.toInstr.wellFormed = true := by
  unfold resolveStore at hop
  split at hop
  case h_4 => exact absurd hop hknown
  all_goals
    rw [DecodedInstruction.toInstr, hop]
    exact himm

/-- The right shifts carry the funct7 that selected them. -/
theorem wellFormed_of_resolveRegImm {d : DecodedInstruction} {f3 : BitVec 3}
    (hop : d.op = resolveRegImm f3 (funct7InImm d.imm != 0#7)) (himm : fitsSext12 d.imm = true) :
    d.toInstr.wellFormed = true := by
  unfold resolveRegImm at hop
  split at hop
  case h_6 =>
    split at hop
    all_goals rw [DecodedInstruction.toInstr, hop]
    next halt => exact Bool.and_eq_true_iff.2 ⟨himm, halt⟩
    next hzero => exact Bool.and_eq_true_iff.2 ⟨himm, by simpa using hzero⟩
  all_goals
    rw [DecodedInstruction.toInstr, hop]
    exact himm

theorem wellFormed_of_resolveRegReg {d : DecodedInstruction} {f3 : BitVec 3} {alt : Bool}
    (hop : d.op = resolveRegReg f3 alt) : d.toInstr.wellFormed = true := by
  unfold resolveRegReg at hop
  split at hop
  case h_1 | h_6 => cases alt <;> rw [DecodedInstruction.toInstr, hop] <;> rfl
  all_goals
    rw [DecodedInstruction.toInstr, hop]
    rfl

/-- Settles O6: the sentinel by `isUnknownWord_of_op`, every other word along the branches of `resolve`, each of which
fixes the opcode and with it the format of the immediate. The funct7 of the word is read as the one in its I immediate,
where the right shifts keep it. -/
theorem decodeIsWellFormed : Obligations.DecodeIsWellFormed := by
  intro w
  by_cases hknown : (decodeFields w).op = .unknown
  · rw [decode_of_op_unknown hknown]
    exact isUnknownWord_of_op hknown
  rw [decode]
  simp only [decodeFields, ← funct7InImm_immI] at hknown ⊢
  generalize w.extractLsb' 0 7 = opcode at hknown ⊢
  unfold resolve at hknown ⊢
  split at hknown
  case h_1 | h_2 => exact fitsU_immU w
  case h_3 => exact fitsJ_immJ w
  case h_4 => exact fitsSext12_immI w
  case h_5 => rfl
  case h_6 => exact wellFormed_of_resolveBranch rfl hknown (fitsB_immB w)
  case h_7 => exact wellFormed_of_resolveLoad rfl hknown (fitsSext12_immI w)
  case h_8 => exact wellFormed_of_resolveStore rfl hknown (fitsSext12_immS w)
  case h_9 => exact wellFormed_of_resolveRegImm rfl (fitsSext12_immI w)
  case h_10 => exact wellFormed_of_resolveRegReg rfl
  case h_11 => contradiction

/-- Settles O16: the decoder computes each of the eleven. -/
theorem sampleWordsDecode : Obligations.SampleWordsDecode := by
  unfold Obligations.SampleWordsDecode
  decide

end Sys2Proof

/-! One step and its report: where the fetch stands, the ways a step can go with the outcome each reports, and the run
through cleared memory. -/

namespace Sys2Proof.Machine

/-! ### The fetch -/

/-- Inside the memory the fetch answers the word at the pc (41_step_cycle R103). -/
theorem State.fetch_of_inBounds {s : State} (h : s.pc.toNat + 4 ≤ s.memSize) :
    s.fetch = some (Memory.read32 s.mem s.pc.toNat) := State.memRead32_of_inBounds h

/-- Outside the memory the fetch answers nothing. -/
theorem State.fetch_of_outside {s : State} (h : s.memSize < s.pc.toNat + 4) : s.fetch = none :=
  State.memRead32_of_outside h

/-- The four bytes at an address decode as the word there does. -/
theorem decodeBytes_readBytes (m : List Host.Cell) (a : Nat) :
    decodeBytes (Memory.readBytes m a 4) = .ok (decode (Memory.read32 m a), []) := rfl

/-- Settles O18: the fetch answers the word at the pc, or nothing. -/
theorem fetchOutsideMemoryFaults : Obligations.FetchOutsideMemoryFaults := by
  intro s hrun hfaulted
  have henabled : s.enabled = true := State.enabled_iff.2 ⟨hrun, hfaulted⟩
  exact ⟨fun hin => step_of_fetch henabled (State.fetch_of_inBounds hin),
    fun hout => step_of_fetch_none henabled (State.fetch_of_outside hout)⟩

/-- Settles O17: the bytes at the pc decode as the fetched word does. -/
theorem stepRunsDecodedInstruction : Obligations.StepRunsDecodedInstruction := by
  intro s i hrun hfaulted hin hdecode
  rw [decodeBytes_readBytes] at hdecode
  cases hdecode
  exact step_of_fetch (State.enabled_iff.2 ⟨hrun, hfaulted⟩) (State.fetch_of_inBounds hin)

/-! ### What a step reports -/

theorem State.enabled_eq_false_iff {s : State} : s.enabled = false ↔ s.running = false ∨ s.faulted = true := by
  rw [State.enabled, Bool.and_eq_false_iff, Bool.not_eq_false']

theorem stepOutcome_of_disabled {s : State} (h : s.enabled = false) : stepOutcome s = none := by
  rw [stepOutcome, step_of_disabled h]

theorem stepOutcome_of_memoryFault {s t : State} {pc addr : Word} (h : step s = .fault (.memoryFault pc addr t)) :
    stepOutcome s = some (.fault pc addr) := by
  rw [stepOutcome, h]

theorem stepOutcome_of_halted {s t : State} (h : step s = .next t) (hrun : t.running = false) :
    stepOutcome s = some .halt := by
  simp [stepOutcome, h, hrun]

/-- A step that runs the sentinel and goes on reports its word (60_exceptions R205). -/
theorem stepOutcome_of_unknown {s t : State} {w : Word} (h : step s = .next t) (hrun : t.running = true)
    (hfetch : s.fetch = some w) (hop : (decodeFields w).op = .unknown) : stepOutcome s = some (.warn s.pc w) := by
  simp [stepOutcome, h, hrun, hfetch, decode_of_op_unknown hop]

/-- A step that runs any other operation and goes on reports Continue. -/
theorem stepOutcome_of_known {s t : State} {w : Word} (h : step s = .next t) (hrun : t.running = true)
    (hfetch : s.fetch = some w) (hop : (decodeFields w).op ≠ .unknown) : stepOutcome s = some .continues := by
  have hknown : ∀ v, decode w ≠ .unknown v := fun v hv => hop (decodeFields_op_of_decode_unknown hv)
  simp only [stepOutcome, h, hrun, hfetch, if_true, Option.map_some]
  split
  · next v heq => exact absurd (Option.some.inj heq) (hknown v)
  · rfl

/-- Settles O19: with the enable off the step answers `noStep`. -/
theorem stoppedCoreTakesNoStep : Obligations.StoppedCoreTakesNoStep := by
  intro s h
  have hdisabled : s.enabled = false := State.enabled_eq_false_iff.2 h
  refine ⟨step_of_disabled hdisabled, stepOutcome_of_disabled hdisabled, ?_⟩
  rw [stateAfter, step_of_disabled hdisabled, outcomeState]

/-! ### The ways a step can go -/

/-- The five ways a step can go, each with its report (41_step_cycle R101, R107). -/
inductive StepReport (s : State) : Host.Outcome State Fault Refusal → Option StepOutcome → Prop where
  /-- no step is taken -/
  | noStep (h : s.enabled = false) : StepReport s (.fault (.noStep s)) none
  /-- the fetch or the data access touches a byte outside the memory -/
  | faults (h : s.enabled = true) (addr : Word) :
      StepReport s (.fault (.memoryFault s.pc addr { s with faulted := true })) (some (.fault s.pc addr))
  /-- the sentinel moves the pc -/
  | warns (h : s.enabled = true) (w : Word) (hfetch : s.fetch = some w) :
      StepReport s (.next (s.goto s.nextPc)) (some (.warn s.pc w))
  /-- an ECALL with the exit code in the exit register stops the machine -/
  | halts (h : s.enabled = true) (hcode : s.reg Config.exitReg = Config.exitCode) :
      StepReport s (.next (s.halt.goto s.nextPc)) (some .halt)
  /-- a real operation completes and the machine stays enabled -/
  | continues (h : s.enabled = true) (t : State) (ht : t.enabled = true) : StepReport s (.next t) (some .continues)

/-- An instruction that completes without an exit leaves the enable as it was. -/
theorem exec_next_enabled {i : Instr} {s t : State} (h : exec i s = .next t) (hrun : t.running = s.running) :
    t.enabled = s.enabled := by
  obtain ⟨hfaulted, -, -⟩ := runningChangesOnlyByExitEcall i s t h
  rw [State.enabled, State.enabled, hrun, hfaulted]

/-- An instruction that stops a running machine is the exit. -/
theorem exec_next_halted {i : Instr} {s t : State} (h : exec i s = .next t) (hrun : s.running = true)
    (hstop : t.running = false) : s.reg Config.exitReg = Config.exitCode ∧ t = s.halt.goto s.nextPc := by
  cases execEffect_of_next h with
  | writesReg => simp [hrun] at hstop
  | movesPc | storesBytes => exact absurd (hrun.symm.trans hstop) (by decide)
  | exits hi hcode =>
    subst hi
    exact ⟨hcode, rfl⟩

/-- An enabled step that completes its instruction warns, halts or continues. -/
theorem stepReport_of_next {s t : State} {w : Word} (henabled : s.enabled = true) (hfetch : s.fetch = some w)
    (hexec : exec (decode w) s = .next t) : StepReport s (.next t) (stepOutcome s) := by
  have hstep : step s = .next t := (step_of_fetch henabled hfetch).trans hexec
  have hrun : s.running = true := (State.enabled_iff.1 henabled).1
  by_cases hop : (decodeFields w).op = .unknown
  · rw [decode_of_op_unknown hop] at hexec
    cases hexec
    rw [stepOutcome_of_unknown hstep hrun hfetch hop]
    exact .warns henabled w hfetch
  · cases hrunning : t.running with
    | false =>
      obtain ⟨hcode, rfl⟩ := exec_next_halted hexec hrun hrunning
      rw [stepOutcome_of_halted hstep hrunning]
      exact .halts henabled hcode
    | true =>
      rw [stepOutcome_of_known hstep hrunning hfetch hop]
      exact .continues henabled t ((exec_next_enabled hexec (hrunning.trans hrun.symm)).trans henabled)

/-- A step that answers a MemoryFault reports it. -/
theorem stepReport_of_memoryFault {s : State} {addr : Word} (henabled : s.enabled = true)
    (h : step s = .fault (.memoryFault s.pc addr { s with faulted := true })) :
    StepReport s (step s) (stepOutcome s) := by
  rw [stepOutcome_of_memoryFault h, h]
  exact .faults henabled addr

/-- Everything a step can do, with its report. -/
theorem step_stepReport (s : State) : StepReport s (step s) (stepOutcome s) := by
  cases henabled : s.enabled with
  | false =>
    rw [step_of_disabled henabled, stepOutcome_of_disabled henabled]
    exact .noStep henabled
  | true =>
    cases hfetch : s.fetch with
    | none => exact stepReport_of_memoryFault henabled (step_of_fetch_none henabled hfetch)
    | some w =>
      have hstep := step_of_fetch henabled hfetch
      cases hexec : exec (decode w) s with
      | next t => exact (hstep.trans hexec) ▸ stepReport_of_next henabled hfetch hexec
      | fault r =>
        obtain ⟨addr, rfl⟩ := exec_fault hexec
        exact stepReport_of_memoryFault henabled (hstep.trans hexec)
      | refused r => cases hexec ▸ exec_execEffect (decode w) s

/-- Settles O21: each report belongs to one of the ways a step can go. -/
theorem outcomeTable : Obligations.OutcomeTable := by
  intro s
  have hreport := step_stepReport s
  rw [← State.enabled_eq_false_iff, stateAfter]
  generalize step s = o at hreport ⊢
  generalize stepOutcome s = r at hreport ⊢
  cases hreport with
  | noStep h => simp [h]
  | faults h addr => simp [h, outcomeState]
  | warns h w hfetch => simp [h, hfetch, outcomeState, State.goto, State.nextPc]
  | halts h hcode => simpa [h, outcomeState] using ⟨hcode, rfl⟩
  | continues h t ht => simpa [h, outcomeState] using State.enabled_iff.1 ht

/-! ### The run through cleared memory -/

theorem run_succ_of_next {s t : State} (h : step s = .next t) (k : Nat) :
    Host.Core.run core (k + 1) s = Host.Core.run core k t := by
  simp only [Host.Core.run, show core.step s = .next t from h]

/-- A run along states each of which steps to the next. -/
theorem run_of_forall_step {f : Nat → State} {m : Nat} (h : ∀ k, k < m → step (f k) = .next (f (k + 1))) :
    ∀ k j, j + k ≤ m → Host.Core.run core k (f j) = .next (f (j + k)) := by
  intro k
  induction k with
  | zero => exact fun _ _ => rfl
  | succ k ih =>
    intro j hj
    rw [run_succ_of_next (h j (by omega)), ← Nat.succ_add_eq_add_succ j k]
    exact ih (j + 1) (by omega)

/-- The reset state with the pc `k` words on. -/
def State.clearedAt (n k : Nat) : State := (State.resetWith n).goto (BitVec.ofNat 32 (4 * k))

section
variable {n k : Nat}

theorem State.clearedAt_pc_toNat (hn : n ≤ Config.maxMemSize) (hk : 4 * k ≤ n) :
    (State.clearedAt n k).pc.toNat = 4 * k := by
  simp only [Config.maxMemSize] at hn
  exact Nat.mod_eq_of_lt (by omega)

theorem State.clearedAt_enabled : (State.clearedAt n k).enabled = true := rfl

/-- A word of cleared memory is zero (70_reset R241). -/
theorem Memory.read32_nil (a : Nat) : Memory.read32 [] a = 0#32 := by
  simp only [Memory.read32, Memory.read_nil]
  decide

/-- The word at every pc inside cleared memory is zero. -/
theorem State.clearedAt_fetch (hn : n ≤ Config.maxMemSize) (hk : 4 * k + 4 ≤ n) :
    (State.clearedAt n k).fetch = some 0#32 := by
  rw [State.fetch_of_inBounds]
  · exact congrArg some (Memory.read32_nil _)
  · rw [State.clearedAt_pc_toNat hn (by omega)]
    exact hk

/-- The zero word is the sentinel, so the step moves the pc by a word. -/
theorem step_clearedAt (hn : n ≤ Config.maxMemSize) (hk : 4 * k + 4 ≤ n) :
    step (State.clearedAt n k) = .next (State.clearedAt n (k + 1)) := by
  have hpc : (State.clearedAt n k).nextPc = BitVec.ofNat 32 (4 * (k + 1)) := (BitVec.ofNat_add _ _).symm
  rw [step_of_fetch State.clearedAt_enabled (State.clearedAt_fetch hn hk), show decode 0#32 = .unknown 0#32 by decide,
    exec, execUnknown, hpc]
  rfl

end

/-- Settles O56: the run goes word by word, each the sentinel, until the fetch at the size is outside. -/
theorem clearedMemoryRunEnds : Obligations.ClearedMemoryRunEnds := by
  intro n _ hn hdvd
  refine ⟨fun k hk => ?run, fun k hk => ?warns, ?ends⟩
  case run =>
    have hrun := run_of_forall_step (f := State.clearedAt n) (m := n / 4)
      (fun k hk => step_clearedAt hn (by omega)) k 0 (by omega)
    rwa [Nat.zero_add] at hrun
  case warns =>
    exact stepOutcome_of_unknown (step_clearedAt hn (by omega)) rfl (State.clearedAt_fetch hn (by omega)) (by decide)
  case ends =>
    obtain ⟨k, rfl⟩ := hdvd
    have hout : (State.clearedAt (4 * k) k).memSize < (State.clearedAt (4 * k) k).pc.toNat + 4 := by
      rw [State.clearedAt_pc_toNat hn le_rfl]
      exact Nat.lt_add_of_pos_right (by omega)
    exact stepOutcome_of_memoryFault (step_of_fetch_none State.clearedAt_enabled (State.fetch_of_outside hout))

end Sys2Proof.Machine

/-! The datapath of Machine/Datapath.lean against the step: what the execute stage and the commit make of a decoded
instruction is what `exec` answers, one lemma per group of control signals, and the report follows from the step's. -/

namespace Sys2Proof.Machine

/-! ### The execute stage and the commit together -/

/-- The execute stage fed by the decoder and the two read ports (41_step_cycle R110). -/
def executeDecoded (s : State) (d : DecodedInstruction) : Except Word ExecuteOut :=
  executeStage s (controlOf d.op) d.imm (s.reg (portA d)) (s.reg d.rs2)

/-- What becomes of the execute stage's answer: a MemoryFault or the commit (41_step_cycle R110). -/
def commitOrFault (s : State) (rd : RegIdx) : Except Word ExecuteOut → Host.Outcome State Fault Refusal
  | .error addr => raiseMemoryFault s addr
  | .ok e => .next (commit s rd e)

/-- A commit that writes a register and nothing else is the write-back. -/
theorem commit_eq_writeBack {s : State} {rd : RegIdx} {e : ExecuteOut} (hrd : e.rdWe = true) (hst : e.stWe = false)
    (hhalt : e.halt = false) : commit s rd e = s.writeBack rd e.rdVal e.nextPc := by
  by_cases hzero : rd = 0#5 <;> simp [commit, State.writeBack, State.setReg, State.goto, hrd, hst, hhalt, hzero]

theorem State.map_memRead8 (s : State) (addr : Word) (f : BitVec 8 → Word) : (s.memRead8 addr).map f =
    if s.inBounds addr 1 then some (f (Memory.read s.mem addr.toNat)) else none :=
  apply_ite (Option.map f) _ _ _

theorem State.map_memRead16 (s : State) (addr : Word) (f : BitVec 16 → Word) : (s.memRead16 addr).map f =
    if s.inBounds addr 2 then some (f (Memory.read16 s.mem addr.toNat)) else none :=
  apply_ite (Option.map f) _ _ _

/-- The blocks under the control signals of a load of `n` bytes, whose value is what the load/store unit delivers. -/
theorem commitOrFault_of_load {s : State} {d : DecodedInstruction} {n : Nat} {signed : Bool} {value : Option Word}
    (hcontrol : controlOf d.op = { result := .loadData, useImm := true, memBytes := n, isSigned := signed })
    (hport : portA d = d.rs1) (hn : n ≠ 0)
    (hvalue : value = if s.inBounds (s.effAddr d.rs1 d.imm) n then
      some (loadStoreUnitRead s.mem (s.effAddr d.rs1 d.imm) n signed) else none) :
    commitOrFault s d.rd (executeDecoded s d) = completeLoad s d.rd (s.effAddr d.rs1 d.imm) value := by
  rw [executeDecoded, hcontrol, hport, hvalue]
  cases hin : s.inBounds (s.effAddr d.rs1 d.imm) n with
  | false => exact congrArg (commitOrFault s d.rd) (if_pos ⟨hn, hin⟩)
  | true =>
    refine (congrArg (commitOrFault s d.rd) (if_neg fun hout => ?_)).trans
      (congrArg Host.Outcome.next (commit_eq_writeBack rfl rfl rfl))
    exact absurd (hin.symm.trans hout.2) (by decide)

/-- The blocks under the control signals of a store of `n` bytes. -/
theorem commitOrFault_of_store {d : DecodedInstruction} {n : Nat} (s : State)
    (hcontrol : controlOf d.op = { useImm := true, memBytes := n, isStore := true })
    (hport : portA d = d.rs1) (hn : n ≠ 0) :
    commitOrFault s d.rd (executeDecoded s d) =
      completeStore s (s.effAddr d.rs1 d.imm) (s.memWrite (s.effAddr d.rs1 d.imm) n (s.reg d.rs2)) := by
  rw [executeDecoded, hcontrol, hport, State.memWrite]
  cases hin : s.inBounds (s.effAddr d.rs1 d.imm) n with
  | false => exact congrArg (commitOrFault s d.rd) (if_pos ⟨hn, hin⟩)
  | true =>
    refine congrArg (commitOrFault s d.rd) (if_neg fun hout => ?_)
    exact absurd (hin.symm.trans hout.2) (by decide)

/-- The blocks under the control signals of ECALL, whose port A reads the exit register (10_state R14). -/
theorem commitOrFault_of_ecall {d : DecodedInstruction} (s : State) (hop : d.op = .ecall) :
    commitOrFault s d.rd (executeDecoded s d) = execEcall s := by
  have hport : portA d = Config.exitReg := if_pos hop
  rw [executeDecoded, hop, hport, execEcall]
  by_cases hcode : s.reg Config.exitReg = Config.exitCode <;>
    simp [commitOrFault, executeStage, controlOf, commit, pcUnit, branchTaken, State.goto, State.halt, State.nextPc,
      hcode]

/-- The blocks make of every decoded instruction what its meaning does. -/
theorem commitOrFault_executeDecoded (s : State) (d : DecodedInstruction) :
    commitOrFault s d.rd (executeDecoded s d) = exec d.toInstr s := by
  obtain ⟨raw, opcode, rd, rs1, rs2, f3, f7, imm, op⟩ := d
  cases op with
  | beq | bne | blt | bge | bltu | bgeu | unknown => rfl
  | ecall => exact commitOrFault_of_ecall s rfl
  | lw => exact commitOrFault_of_load rfl rfl (by decide) rfl
  | lb | lbu => exact commitOrFault_of_load rfl rfl (by decide) (State.map_memRead8 ..)
  | lh | lhu => exact commitOrFault_of_load rfl rfl (by decide) (State.map_memRead16 ..)
  | sb | sh | sw => exact commitOrFault_of_store s rfl rfl (by decide)
  | _ => exact congrArg Host.Outcome.next (commit_eq_writeBack rfl rfl rfl)

/-! ### The report -/

theorem executeStage_warn {s : State} {c : Control} {imm a b : Word} {e : ExecuteOut}
    (h : executeStage s c imm a b = .ok e) : e.warn = c.warn := by
  unfold executeStage at h
  extract_lets result at h
  split at h
  · cases h
  · cases h
    rfl

/-- The sentinel's control signals are the ones that warn (60_exceptions R205). -/
theorem controlOf_warn (op : Operation) : (controlOf op).warn = true ↔ op = .unknown := by
  cases op <;> decide

/-- What the datapath reports of a fetched word, by the execute stage's answer. -/
theorem datapathStep_of_error {s : State} {w addr : Word} (henabled : s.enabled = true) (hfetch : s.fetch = some w)
    (hstage : executeDecoded s (decodeFields w) = .error addr) :
    datapathStep s = (raiseMemoryFault s addr, some (.fault s.pc addr)) := by
  rw [executeDecoded] at hstage
  simp [datapathStep, henabled, hfetch, hstage]

theorem datapathStep_of_ok {s : State} {w : Word} {e : ExecuteOut} (henabled : s.enabled = true)
    (hfetch : s.fetch = some w) (hstage : executeDecoded s (decodeFields w) = .ok e) :
    datapathStep s = (.next (commit s (decodeFields w).rd e),
      some (if e.halt then .halt else if e.warn then .warn s.pc w else .continues)) := by
  rw [executeDecoded] at hstage
  simp [datapathStep, henabled, hfetch, hstage]

/-- The report of a step whose blocks commit. -/
theorem stepOutcome_of_ok {s : State} {w : Word} {e : ExecuteOut} (henabled : s.enabled = true)
    (hfetch : s.fetch = some w) (hstage : executeDecoded s (decodeFields w) = .ok e)
    (hstep : step s = .next (commit s (decodeFields w).rd e)) :
    stepOutcome s = some (if e.halt then .halt else if e.warn then .warn s.pc w else .continues) := by
  have hwarn : e.warn = true ↔ (decodeFields w).op = .unknown :=
    (executeStage_warn hstage).symm ▸ controlOf_warn (decodeFields w).op
  have hrun : s.running = true := (State.enabled_iff.1 henabled).1
  by_cases hhalt : e.halt = true
  · rw [if_pos hhalt]
    exact stepOutcome_of_halted hstep (if_pos hhalt)
  · have hrunning : (commit s (decodeFields w).rd e).running = true := (if_neg hhalt).trans hrun
    rw [if_neg hhalt]
    by_cases hop : (decodeFields w).op = .unknown
    · rw [if_pos (hwarn.2 hop)]
      exact stepOutcome_of_unknown hstep hrunning hfetch hop
    · rw [if_neg (mt hwarn.1 hop)]
      exact stepOutcome_of_known hstep hrunning hfetch hop

/-- Settles O22: the two agree where nothing is fetched, and on a fetched word the blocks answer what `exec` does. -/
theorem datapathIsTheStep : Obligations.DatapathIsTheStep := by
  intro s
  cases henabled : s.enabled with
  | false => simp [datapathStep, henabled, step_of_disabled henabled, stepOutcome_of_disabled henabled]
  | true =>
    cases hfetch : s.fetch with
    | none =>
      have hstep := step_of_fetch_none henabled hfetch
      rw [stepOutcome_of_memoryFault hstep, hstep]
      simp [datapathStep, henabled, hfetch]
    | some w =>
      have hstep := step_of_fetch henabled hfetch
      rw [decode, ← commitOrFault_executeDecoded] at hstep
      cases hstage : executeDecoded s (decodeFields w) with
      | error addr =>
        rw [hstage] at hstep
        rw [datapathStep_of_error henabled hfetch hstage, stepOutcome_of_memoryFault hstep, hstep]
        rfl
      | ok e =>
        rw [hstage] at hstep
        rw [datapathStep_of_ok henabled hfetch hstage, stepOutcome_of_ok henabled hfetch hstage hstep, hstep]
        rfl

end Sys2Proof.Machine

/-! The ALU as arithmetic on integers and on bits, and the instructions that write back one of its results. -/

namespace Sys2Proof.Machine

/-! ### Sum and difference -/

/-- The sum encodes the sum of the unsigned readings (42_alu R121). -/
theorem alu_add_eq_ofNat (a b : Word) : alu .add a b = BitVec.ofNat 32 (a.toNat + b.toNat) :=
  BitVec.eq_of_toNat_eq ((BitVec.toNat_add a b).trans (BitVec.toNat_ofNat ..).symm)

/-- The sum encodes the sum of the two's-complement readings. -/
theorem alu_add_eq_ofInt (a b : Word) : alu .add a b = BitVec.ofInt 32 (a.toInt + b.toInt) := by
  rw [BitVec.ofInt_add, BitVec.ofInt_toInt, BitVec.ofInt_toInt]
  rfl

/-- The difference encodes the difference of the two's-complement readings (42_alu R121). -/
theorem alu_sub_eq_ofInt (a b : Word) : alu .sub a b = BitVec.ofInt 32 (a.toInt - b.toInt) := by
  rw [Int.sub_eq_add_neg, BitVec.ofInt_add, BitVec.ofInt_neg, BitVec.ofInt_toInt, BitVec.ofInt_toInt]
  exact BitVec.sub_eq_add_neg a b

theorem alu_sub_toNat (a b : Word) : ((alu .sub a b).toNat : Int) = ((a.toNat : Int) - b.toNat) % 2 ^ 32 := by
  have hb : b.toNat < 2 ^ 32 := b.isLt
  have hsub : (alu .sub a b).toNat = (2 ^ 32 - b.toNat + a.toNat) % 2 ^ 32 := BitVec.toNat_sub a b
  omega

/-- The adder forms the difference with the complement and a carry in. -/
theorem alu_sub_eq_add_not (a b : Word) : alu .sub a b = a + ~~~b + 1#32 := by
  rw [BitVec.add_assoc, ← BitVec.neg_eq_not_add]
  exact BitVec.sub_eq_add_neg a b

/-! ### Shifts -/

/-- The shift count is the value modulo 32 (42_alu R122, R133). -/
theorem shiftCount_eq (v : Word) : shiftCount v = v.toNat % 32 := BitVec.extractLsb'_toNat 0 5 v

theorem alu_sll_toNat (a b : Word) : (alu .sll a b).toNat = a.toNat * 2 ^ shiftCount b % 2 ^ 32 := by
  rw [← Nat.shiftLeft_eq]
  exact BitVec.toNat_shiftLeft

theorem alu_srl_toNat (a b : Word) : (alu .srl a b).toNat = a.toNat / 2 ^ shiftCount b := by
  rw [← Nat.shiftRight_eq_div_pow]
  exact BitVec.toNat_ushiftRight a _

theorem alu_sra_toInt (a b : Word) : (alu .sra a b).toInt = a.toInt / 2 ^ shiftCount b := by
  have hshift : (alu .sra a b).toInt = a.toInt >>> shiftCount b := BitVec.toInt_sshiftRight
  rw [hshift, Int.shiftRight_eq_div_pow, Nat.cast_pow, Nat.cast_ofNat]

theorem alu_sll_eq_ofNat (a b : Word) : alu .sll a b = BitVec.ofNat 32 (a.toNat * 2 ^ (b.toNat % 32)) := by
  apply BitVec.eq_of_toNat_eq
  rw [alu_sll_toNat, shiftCount_eq, BitVec.toNat_ofNat]

theorem alu_srl_eq_ofNat (a b : Word) : alu .srl a b = BitVec.ofNat 32 (a.toNat / 2 ^ (b.toNat % 32)) := by
  rw [← shiftCount_eq, ← alu_srl_toNat, BitVec.ofNat_toNat, BitVec.setWidth_eq]

theorem alu_sra_eq_ofInt (a b : Word) : alu .sra a b = BitVec.ofInt 32 (a.toInt / 2 ^ (b.toNat % 32)) := by
  rw [← shiftCount_eq, ← alu_sra_toInt, BitVec.ofInt_toInt]

/-- Settles O27: function by function; the bitwise ones are the library's bit lemmas. -/
theorem aluFunctions : Obligations.AluFunctions := fun a b =>
  ⟨BitVec.toNat_add a b, alu_sub_toNat a b, alu_sub_eq_add_not a b,
    fun _ _ => BitVec.getLsbD_and, fun _ _ => BitVec.getLsbD_or, fun _ _ => BitVec.getLsbD_xor,
    alu_sll_toNat a b, alu_srl_toNat a b, alu_sra_toInt a b⟩

/-! ### The instructions that write back a result of the ALU -/

/-- A register-register operation completes in every state (42_alu section 2, 10_state R15). -/
theorem aluRegReg_regEffect {f : AluOp} {s : State} {rd rs1 rs2 : RegIdx} {v : Word}
    (hv : alu f (s.reg rs1) (s.reg rs2) = v) :
    ∃ t, aluRegReg f rd rs1 rs2 s = .next t ∧ RegEffect s t rd v (s.pc + 4#32) :=
  ⟨_, aluRegReg_eq f rd rs1 rs2 s, hv ▸ writeBack_regEffect ..⟩

/-- A register-immediate operation completes in every state (42_alu section 3, 10_state R15). -/
theorem aluRegImm_regEffect {f : AluOp} {s : State} {rd rs1 : RegIdx} {imm v : Word}
    (hv : alu f (s.reg rs1) imm = v) :
    ∃ t, aluRegImm f rd rs1 imm s = .next t ∧ RegEffect s t rd v (s.pc + 4#32) :=
  ⟨_, aluRegImm_eq f rd rs1 imm s, hv ▸ writeBack_regEffect ..⟩

/-- Settles O28: each of the five is `aluRegReg` with its own function. -/
theorem addSubAndLogicRegReg : Obligations.AddSubAndLogicRegReg := fun _ _ _ _ =>
  ⟨aluRegReg_regEffect (alu_add_eq_ofNat ..), aluRegReg_regEffect (alu_sub_eq_ofInt ..),
    aluRegReg_regEffect (f := .and) rfl, aluRegReg_regEffect (f := .or) rfl, aluRegReg_regEffect (f := .xor) rfl⟩

/-- Settles O29: each of the three is `aluRegReg` with its own shift. -/
theorem shiftsRegReg : Obligations.ShiftsRegReg := fun _ _ _ _ =>
  ⟨aluRegReg_regEffect (alu_sll_eq_ofNat ..), aluRegReg_regEffect (alu_srl_eq_ofNat ..),
    aluRegReg_regEffect (alu_sra_eq_ofInt ..)⟩

/-- Settles O30: each of the four is `aluRegImm` with its own function, whatever the immediate. -/
theorem addAndLogicRegImm : Obligations.AddAndLogicRegImm := fun _ _ _ _ =>
  ⟨aluRegImm_regEffect (alu_add_eq_ofInt ..), aluRegImm_regEffect (f := .and) rfl,
    aluRegImm_regEffect (f := .or) rfl, aluRegImm_regEffect (f := .xor) rfl⟩

/-- Settles O31: the shifts of O29, with the immediate in the place of the second register. -/
theorem shiftsRegImm : Obligations.ShiftsRegImm := fun _ _ _ _ =>
  ⟨aluRegImm_regEffect (alu_sll_eq_ofNat ..), aluRegImm_regEffect (alu_srl_eq_ofNat ..),
    aluRegImm_regEffect (alu_sra_eq_ofInt ..)⟩

end Sys2Proof.Machine

/-! The comparator's bits as comparisons of readings, and the set-less-than instructions that write them back. -/

namespace Sys2Proof.Machine

/-! ### The comparator -/

/-- `eq` compares bit by bit (43_compare R141). -/
theorem cmpEq_iff_getLsbD {a b : Word} : cmpEq a b = true ↔ ∀ k, k < 32 → a.getLsbD k = b.getLsbD k :=
  beq_iff_eq.trans BitVec.eq_of_getLsbD_eq_iff

theorem cmpLt_iff {a b : Word} : cmpLt a b = true ↔ a.toInt < b.toInt := decide_eq_true_iff

theorem cmpLtu_iff {a b : Word} : cmpLtu a b = true ↔ a.toNat < b.toNat := decide_eq_true_iff

/-- The signed comparison is the unsigned one, turned over where the sign bits differ (43_compare R142). -/
theorem cmpLt_eq_xor_cmpLtu (a b : Word) : cmpLt a b = ((a.msb ^^ b.msb) ^^ cmpLtu a b) := BitVec.slt_eq_ult

/-- In ISASIM's formula each sign bit meets itself and cancels (43_compare R142). -/
theorem cmpLtuXor_eq_cmpLtu (a b : Word) : cmpLtuXor a b = cmpLtu a b :=
  calc cmpLtuXor a b
      = ((((a.msb ^^ b.msb) ^^ cmpLtu a b) ^^ a.msb) ^^ b.msb) := by
        rw [cmpLtuXor, cmpLt_eq_xor_cmpLtu, BitVec.msb_eq_toInt, BitVec.msb_eq_toInt]
    _ = ((cmpLtu a b ^^ (a.msb ^^ b.msb)) ^^ (a.msb ^^ b.msb)) := by
        rw [Bool.xor_assoc _ a.msb, Bool.xor_comm (cmpLtu a b)]
    _ = cmpLtu a b := by rw [Bool.xor_assoc, Bool.xor_self, Bool.xor_false]

/-- Settles O32: the three bits by their definitions, the formula by cancelling the sign bits. -/
theorem comparatorMeaning : Obligations.ComparatorMeaning := fun a b =>
  ⟨cmpEq_iff_getLsbD, cmpLt_iff, cmpLtu_iff, cmpLtuXor_eq_cmpLtu a b⟩

/-! ### The set-less-than instructions -/

theorem boolWord_decide (p : Prop) [Decidable p] : boolWord (decide p) = if p then 1#32 else 0#32 := by
  simp only [boolWord, decide_eq_true_eq]

/-- The ALU's signed comparison writes 1 or 0 (43_compare R143, decision D26). -/
theorem alu_slt_eq_ite (a b : Word) : alu .slt a b = if a.toInt < b.toInt then 1#32 else 0#32 := boolWord_decide _

/-- The ALU's unsigned comparison writes 1 or 0 (43_compare R144, decision D26). -/
theorem alu_sltu_eq_ite (a b : Word) : alu .sltu a b = if a.toNat < b.toNat then 1#32 else 0#32 := boolWord_decide _

/-- Settles O33: each of the four is `aluRegReg` or `aluRegImm` with its own comparison, whatever the immediate. -/
theorem setLessThan : Obligations.SetLessThan :=
  ⟨fun _ _ _ _ => ⟨aluRegReg_regEffect (alu_slt_eq_ite ..), aluRegReg_regEffect (alu_sltu_eq_ite ..)⟩,
    fun _ _ _ _ => ⟨aluRegImm_regEffect (alu_slt_eq_ite ..), aluRegImm_regEffect (alu_sltu_eq_ite ..)⟩⟩

end Sys2Proof.Machine

/-! The jumps: the opcode alone names each, and one write-back carries both the link and the target. -/

namespace Sys2Proof

open Machine

/-! ### The words of one opcode -/

/-- With the opcode alone known, the format is settled and the resolution is left with funct3 and funct7. -/
theorem decode_of_opcode {w : Word} {opcode : BitVec 7} (h : HasOpcode w opcode) :
    decode w = { decodeFields w with
      imm := immediate (formatOf opcode) w,
      op := resolve opcode (w.extractLsb' 12 3) (w.extractLsb' 25 7) }.toInstr :=
  decode_of_codes ⟨h, rfl⟩

/-- Opcode 0x6F fixes the operation and the J format (40_decoder R85, 30_encoding R53). -/
theorem decode_jal {w : Word} (h : HasOpcode w 0x6F#7) : decode w = .jal (w.extractLsb' 7 5) (immJ w) :=
  decode_of_opcode h

/-- Opcode 0x67 fixes the operation and the I format; funct3 is not examined (30_encoding R66, decision D6). -/
theorem decode_jalr {w : Word} (h : HasOpcode w 0x67#7) :
    decode w = .jalr (w.extractLsb' 7 5) (w.extractLsb' 15 5) (immI w) :=
  decode_of_opcode h

/-- A J immediate is even (30_encoding R58). -/
theorem immJ_even (w : Word) : (immJ w).getLsbD 0 = false := immJ_getLsbD w (by omega)

end Sys2Proof

namespace Sys2Proof.Machine

/-! ### The two meanings -/

/-- JAL answers the write-back of the link, at the target, in every state (44_jumps R151, R154). -/
theorem exec_jal (rd : RegIdx) (imm : Word) (s : State) :
    exec (.jal rd imm) s = .next (s.writeBack rd (s.pc + 4#32) (s.pc + imm)) := rfl

/-- JALR answers the write-back of the link, at the target, in every state; the target is computed from the state
before the write-back, so `rd = rs1` needs no case of its own (44_jumps R152, R154). -/
theorem exec_jalr (rd rs1 : RegIdx) (imm : Word) (s : State) :
    exec (.jalr rd rs1 imm) s = .next (s.writeBack rd (s.pc + 4#32) (s.reg rs1 + imm)) := rfl

/-- Settles O35: the opcode fixes the encoding, and the step is a write-back of the link at the target. -/
theorem jalLinksAndJumps : Obligations.JalLinksAndJumps :=
  ⟨fun w h => ⟨decode_jal h, immJ_even w, immJ_range w⟩,
    fun s rd imm => ⟨_, exec_jal rd imm s, writeBack_regEffect ..⟩⟩

/-- Settles O36: as O35, with the target read from the old `x[rs1]`. -/
theorem jalrLinksAndJumps : Obligations.JalrLinksAndJumps :=
  ⟨fun _ h => decode_jalr h,
    fun s rd rs1 imm => ⟨_, exec_jalr rd rs1 imm s, writeBack_regEffect ..⟩⟩

end Sys2Proof.Machine

/-! The branches: each is `branch` with one bit of the comparator, straight or inverted, and writes only the pc. -/

namespace Sys2Proof.Machine

/-! ### The six conditions -/

theorem cmpEq_iff {a b : Word} : cmpEq a b = true ↔ a = b := beq_iff_eq

theorem not_cmpEq_iff {a b : Word} : (!cmpEq a b) = true ↔ a ≠ b :=
  Bool.not_iff_not.trans (not_congr cmpEq_iff)

/-- The inverted signed comparison is "greater or equal" (45_branches R164, decision D26). -/
theorem not_cmpLt_iff {a b : Word} : (!cmpLt a b) = true ↔ b.toInt ≤ a.toInt :=
  Bool.not_iff_not.trans ((not_congr cmpLt_iff).trans not_lt)

/-- The inverted unsigned comparison is "greater or equal" (45_branches R166, decision D26). -/
theorem not_cmpLtu_iff {a b : Word} : (!cmpLtu a b) = true ↔ b.toNat ≤ a.toNat :=
  Bool.not_iff_not.trans ((not_congr cmpLtu_iff).trans not_lt)

/-! ### Completion and frame -/

/-- A branch whose bit says `P` completes in every state, at the target when `P` holds (45_branches R160). -/
theorem branch_pcEffect {taken : Bool} {P : Prop} [Decidable P] {imm : Word} {s : State} (h : taken = true ↔ P) :
    ∃ t, branch taken imm s = .next t ∧ PcEffect s t (if P then s.pc + imm else s.pc + 4#32) :=
  ⟨_, branch_eq taken imm s, if_congr h rfl rfl ▸ goto_pcEffect ..⟩

/-- Settles O37: each of the six is `branch` with its own bit, and the bit says the condition. -/
theorem branchesTakenOrNot : Obligations.BranchesTakenOrNot := fun _ _ _ _ =>
  ⟨branch_pcEffect cmpEq_iff, branch_pcEffect not_cmpEq_iff, branch_pcEffect cmpLt_iff,
    branch_pcEffect not_cmpLt_iff, branch_pcEffect cmpLtu_iff, branch_pcEffect not_cmpLtu_iff⟩

end Sys2Proof.Machine

/-! The loads: each is `completeLoad` on a value of its own width, which is there exactly inside the memory. -/

namespace Sys2Proof.Machine

/-! ### The two ends of a load -/

/-- A load that has a value completes, and writes the value to its destination alone (46_loads R177). -/
theorem completeLoad_regEffect {s : State} {rd : RegIdx} {ea : Word} {value : Option Word} {v : Word}
    (hvalue : value = some v) :
    ∃ t, completeLoad s rd ea value = .next t ∧ RegEffect s t rd v (s.pc + 4#32) :=
  ⟨_, congrArg (completeLoad s rd ea) hvalue, writeBack_regEffect ..⟩

/-- A load that has no value faults at its address, whatever its destination (46_loads R177, decision D11). -/
theorem completeLoad_faultsAt {s : State} {rd : RegIdx} {ea : Word} {value : Option Word} (hvalue : value = none) :
    FaultsAt s ea (completeLoad s rd ea value) :=
  congrArg (completeLoad s rd ea) hvalue

/-! ### The five loads -/

/-- Settles O38: the codes fix the encoding, and inside the memory the value read is there to be extended. -/
theorem loadsReadAndExtend : Obligations.LoadsReadAndExtend := by
  refine ⟨fun _ => ⟨decode_of_codes, decode_of_codes, decode_of_codes, decode_of_codes, decode_of_codes⟩,
    fun s rd rs1 imm => ⟨fun h => ?lb, fun h => ?lh, fun h => ?lw, fun h => ?lbu, fun h => ?lhu⟩⟩
  all_goals refine completeLoad_regEffect ?_
  case lb | lbu => exact congrArg (Option.map _) (State.memRead8_of_inBounds h)
  case lh | lhu => exact congrArg (Option.map _) (State.memRead16_of_inBounds h)
  case lw => exact State.memRead32_of_inBounds h

/-- Settles O39: outside the memory there is no value, and none to extend. -/
theorem loadsOutsideMemoryFault : Obligations.LoadsOutsideMemoryFault := by
  refine fun s rd rs1 imm => ⟨fun h => ?lb, fun h => ?lh, fun h => ?lw, fun h => ?lbu, fun h => ?lhu⟩
  all_goals refine completeLoad_faultsAt ?_
  case lb | lbu => exact congrArg (Option.map _) (State.memRead8_of_outside h)
  case lh | lhu => exact congrArg (Option.map _) (State.memRead16_of_outside h)
  case lw => exact State.memRead32_of_outside h

end Sys2Proof.Machine

/-! The stores: each is `completeStore` on a write of its own width, which is made exactly inside the memory. -/

namespace Sys2Proof.Machine

/-! ### The two ends of a store -/

/-- A store inside the memory completes, at any alignment, and writes its bytes alone (47_stores R184). -/
theorem completeStore_memWrite_storeEffect {s : State} (hm : Memory.wf s.mem = true) {ea : Word} {n : Nat} (v : Word)
    (hin : ea.toNat + n ≤ s.memSize) :
    ∃ t, completeStore s ea (s.memWrite ea n v) = .next t ∧ StoreEffect s t ea n v (s.pc + 4#32) :=
  ⟨_, congrArg (completeStore s ea) (State.memWrite_of_inBounds hin v), completeStore_storeEffect hm ea v n⟩

/-- A store that touches a byte outside the memory faults at its address (47_stores R184, decision D11). -/
theorem completeStore_memWrite_faultsAt {s : State} {ea : Word} {n : Nat} (v : Word)
    (hout : s.memSize < ea.toNat + n) : FaultsAt s ea (completeStore s ea (s.memWrite ea n v)) :=
  congrArg (completeStore s ea) (State.memWrite_of_outside hout v)

/-! ### The three stores -/

/-- Settles O40: the codes fix the encoding, and each of the three is a store of its own width. -/
theorem storesWriteLowBytes : Obligations.StoresWriteLowBytes :=
  ⟨fun _ => ⟨decode_of_codes, decode_of_codes, decode_of_codes⟩,
    fun s _ rs2 _ hm => ⟨completeStore_memWrite_storeEffect hm (s.reg rs2),
      completeStore_memWrite_storeEffect hm (s.reg rs2), completeStore_memWrite_storeEffect hm (s.reg rs2)⟩⟩

/-- Settles O41: outside the memory nothing is written, whatever the width. -/
theorem storesOutsideMemoryFault : Obligations.StoresOutsideMemoryFault := fun s _ rs2 _ =>
  ⟨completeStore_memWrite_faultsAt (s.reg rs2), completeStore_memWrite_faultsAt (s.reg rs2),
    completeStore_memWrite_faultsAt (s.reg rs2)⟩

end Sys2Proof.Machine

/-! The upper immediates: the opcode alone names each, and one write-back carries the result. -/

namespace Sys2Proof.Machine

/-- LUI writes back the immediate in every state (48_upper_imm R190). -/
theorem exec_lui (rd : RegIdx) (imm : Word) (s : State) :
    exec (.lui rd imm) s = .next (s.writeBack rd imm (s.pc + 4#32)) := rfl

/-- AUIPC writes back the sum with the address of the instruction itself (48_upper_imm R191, decision D8). -/
theorem exec_auipc (rd : RegIdx) (imm : Word) (s : State) :
    exec (.auipc rd imm) s =
      .next (s.writeBack rd (BitVec.ofNat 32 (s.pc.toNat + imm.toNat)) (s.pc + 4#32)) := by
  rw [← alu_add_eq_ofNat]
  rfl

/-- Settles O34: the opcode fixes the encoding, and the step is a write-back. -/
theorem upperImmediates : Obligations.UpperImmediates :=
  ⟨fun _ => ⟨decode_of_opcode, decode_of_opcode⟩,
    fun s rd imm => ⟨⟨_, exec_lui rd imm s, writeBack_regEffect ..⟩,
      ⟨_, exec_auipc rd imm s, writeBack_regEffect ..⟩⟩⟩

end Sys2Proof.Machine

/-! ECALL and the sentinel: the two instructions that move the pc and write no register. -/

namespace Sys2Proof.Machine

/-! ### ECALL -/

/-- The immediate of a word goes by its opcode alone (30_encoding R53). -/
theorem decodeFields_imm_of_opcode {w : Word} {opcode : BitVec 7} (h : HasOpcode w opcode) :
    (decodeFields w).imm = immediate (formatOf opcode) w := by
  rw [← h, decodeFields]

/-- With the exit code in the exit register ECALL stops the machine (49_system R195, decision D13). -/
theorem exec_ecall_of_exitCode {s : State} (h : s.reg Config.exitReg = Config.exitCode) :
    exec .ecall s = .next (s.halt.goto (s.pc + 4#32)) := by
  rw [exec, execEcall, if_pos h, State.nextPc]

/-- With any other of its 32-bit values ECALL moves the pc alone. -/
theorem exec_ecall_of_ne_exitCode {s : State} (h : s.reg Config.exitReg ≠ Config.exitCode) :
    exec .ecall s = .next (s.goto (s.pc + 4#32)) := by
  rw [exec, execEcall, if_neg h, State.nextPc]

/-- Settles O44: the opcode fixes the encoding, and the two cases are those of the test of `x[10]`. -/
theorem ecallHaltsOnTenElseContinues : Obligations.EcallHaltsOnTenElseContinues := by
  refine ⟨fun w h => ⟨decode_of_opcode h, decodeFields_imm_of_opcode h⟩,
    fun s => ⟨fun hcode => ?halts, fun hne => ?goesOn⟩⟩
  case halts =>
    exact ⟨_, exec_ecall_of_exitCode hcode, rfl, rfl, fun r => State.reg_congr rfl r, fun _ => rfl, rfl, rfl⟩
  case goesOn => exact ⟨_, exec_ecall_of_ne_exitCode hne, goto_pcEffect ..⟩

/-! ### The sentinel -/

/-- The sentinel moves the pc alone, in every state (49_system R197, decision D12). -/
theorem exec_unknown (w : Word) (s : State) : exec (.unknown w) s = .next (s.goto (s.pc + 4#32)) := rfl

theorem stateAfter_of_next {s t : State} (h : step s = .next t) : stateAfter s = t := by
  rw [stateAfter, h, outcomeState]

/-- A word no row names runs as the sentinel. -/
theorem step_of_isUnknownWord {s : State} {w : Word} (henabled : s.enabled = true) (hfetch : s.fetch = some w)
    (hw : isUnknownWord w = true) : step s = .next (s.goto (s.pc + 4#32)) := by
  rw [step_of_fetch henabled hfetch, decode_eq_unknown_iff.2 hw, exec_unknown]

/-- Settles O45: the step is the sentinel's, and reports the word it fetched. -/
theorem unknownIsReportedNoOp : Obligations.UnknownIsReportedNoOp := by
  refine ⟨fun s w => ⟨_, exec_unknown w s, goto_pcEffect ..⟩, fun s w hrun hfaulted hfetch hw => ?_⟩
  have hstep := step_of_isUnknownWord (State.enabled_iff.2 ⟨hrun, hfaulted⟩) hfetch hw
  rw [stateAfter_of_next hstep]
  exact ⟨stepOutcome_of_unknown hstep hrun hfetch (isUnknownWord_resolve hw), goto_pcEffect ..⟩

end Sys2Proof.Machine

/-! What can go wrong in an instruction: a data access outside the memory, and nothing else. -/

namespace Sys2Proof.Machine

/-- The number of bytes is the one of the data access (20_memory R38). -/
theorem dataBytes_eq_dataAccess (i : Instr) : dataBytes i = (dataAccess i).map (·.2.2) := by
  cases i <;> rfl

/-- An instruction completes, or its data access is outside the memory and faults (60_exceptions R202, R203). -/
theorem exec_next_or_faultsAt (i : Instr) (s : State) : (∃ t, exec i s = .next t) ∨
    ∃ n addr, dataBytes i = some n ∧ s.memSize < addr.toNat + n ∧ FaultsAt s addr (exec i s) := by
  have heffect := exec_execEffect i s
  generalize exec i s = o at heffect ⊢
  cases heffect with
  | writesReg | movesPc | storesBytes | exits => exact .inl ⟨_, rfl⟩
  | faults rs1 imm n haccess hout =>
    exact .inr ⟨n, s.effAddr rs1 imm, by rw [dataBytes_eq_dataAccess, haccess]; rfl, hout, rfl⟩

/-- Settles O48: an instruction without a data access has no bytes to fault on. -/
theorem onlyDataAccessesFault : Obligations.OnlyDataAccessesFault := by
  refine fun i s => ⟨fun hnone => ?_, exec_next_or_faultsAt i s⟩
  obtain hnext | ⟨n, addr, hsome, -, -⟩ := exec_next_or_faultsAt i s
  · exact hnext
  · cases hnone.symm.trans hsome

end Sys2Proof.Machine

/-! The state after reset and the host's copies from and to the core: the image load and the register dump. -/

namespace Sys2Proof.Machine

/-! ### Reset -/

/-- The stack pointer holds the size (70_reset R241). -/
theorem State.resetWith_reg_two (n : Nat) : (State.resetWith n).reg 2#5 = BitVec.ofNat 32 n := by
  simp [State.reg, State.resetWith]

/-- The size is one a register can hold (00_scope section 4, decision D9). -/
theorem State.resetWith_reg_two_toNat {n : Nat} (hn : n ≤ Config.maxMemSize) :
    ((State.resetWith n).reg 2#5).toNat = n := by
  rw [State.resetWith_reg_two, BitVec.toNat_ofNat]
  exact Nat.mod_eq_of_lt (hn.trans_lt (by decide))

/-- Every other register is cleared (70_reset R241, decision D18). -/
theorem State.resetWith_reg_of_ne {n : Nat} {r : RegIdx} (h : r ≠ 2#5) : (State.resetWith n).reg r = 0#32 := by
  have hne : 2 ≠ r.toNat := fun e => h (BitVec.eq_of_toNat_eq e.symm)
  simp [State.reg, State.resetWith, hne]

/-- Settles O1: field by field, and register by register. -/
theorem resetValues : Obligations.ResetValues :=
  ⟨fun _ _ hn => ⟨rfl, State.resetWith_reg_two_toNat hn, fun _ => State.resetWith_reg_of_ne, fun _ => rfl,
    rfl, rfl, rfl⟩, rfl⟩

/-- The reset state of a legal size is running with an empty memory list. -/
theorem State.resetWith_inv {n : Nat} (hmin : Config.minMemSize ≤ n) (hmax : n ≤ Config.maxMemSize) :
    (State.resetWith n).Inv where
  size_min := hmin
  size_max := hmax
  mem_wf := State.resetWith_mem_wf n
  mem_below := rfl
  x0_zero := by simp [State.resetWith]
  halt_code := by simp [State.resetWith]
  not_both := .inl rfl

/-- Settles O2: the default size is a legal one. -/
theorem resetMeetsInvariant : Obligations.ResetMeetsInvariant :=
  ⟨fun _ => State.resetWith_inv, State.resetWith_inv (by decide) (by decide)⟩

/-! ### The image load -/

/-- The state after the bytes of an image were copied to address 0 (70_reset R246). -/
def State.withImage (s : State) (bytes : List Byte) : State :=
  { s with mem := Memory.writeBytes s.mem Config.imageBase bytes }

/-- An image that fits is copied (70_reset R246). -/
theorem loadImage_of_le {s : State} {bytes : List Byte} (h : bytes.length ≤ s.memSize) :
    loadImage (some bytes) s = .ok (s.withImage bytes) := if_pos h

/-- A longer image is refused (70_reset R247, decision D20). -/
theorem loadImage_of_lt {s : State} {bytes : List Byte} (h : s.memSize < bytes.length) :
    loadImage (some bytes) s = .error .tooLarge := if_neg (Nat.not_le_of_lt h)

/-- An image load that succeeds had an image that fits, and copied it. -/
theorem loadImage_ok {image : Option (List Byte)} {s t : State} (h : loadImage image s = .ok t) :
    ∃ bytes, bytes.length ≤ s.memSize ∧ t = s.withImage bytes := by
  cases image with
  | none => cases h
  | some bytes =>
    obtain hle | hlt := le_or_gt bytes.length s.memSize
    · rw [loadImage_of_le hle] at h
      exact ⟨bytes, hle, (Except.ok.inj h).symm⟩
    · rw [loadImage_of_lt hlt] at h
      cases h

/-- Settles O52: the copy is a write of bytes at address 0. -/
theorem imageLoadPlacesBytes : Obligations.ImageLoadPlacesBytes := by
  refine ⟨fun s bytes hwf hle => ⟨_, loadImage_of_le hle, fun k hk => ?inside, fun a ha => ?outside,
    fun r => State.reg_congr rfl r, rfl, rfl, rfl, rfl⟩, fun _ _ => loadImage_of_lt, fun _ => rfl⟩
  case inside =>
    have hread := Memory.read_writeBytes_inside hwf Config.imageBase bytes hk
    rwa [Config.imageBase, Nat.zero_add] at hread
  case outside => exact Memory.read_writeBytes_outside s.mem bytes (.inr ((Nat.zero_add _).trans_le ha))

/-! ### The register dump -/

/-- In a list put together of blocks of `c` entries, entry `c * j + k` is entry `k` of block `j`. -/
theorem getElem?_flatMap_of_length {α β : Type} {f : α → List β} {c : Nat} (hc : ∀ x, (f x).length = c) (l : List α)
    (j : Nat) {k : Nat} (hk : k < c) : (l.flatMap f)[c * j + k]? = l[j]?.bind fun x => (f x)[k]? := by
  induction l generalizing j with
  | nil => simp
  | cons x l ih =>
    rw [List.flatMap_cons]
    cases j with
    | zero => simp [List.getElem?_append_left, hc, hk]
    | succ j =>
      have hsub : c * (j + 1) + k - c = c * j + k := by rw [Nat.mul_succ]; omega
      rw [List.getElem?_append_right (by rw [hc, Nat.mul_succ]; omega), hc, hsub, ih j, List.getElem?_cons_succ]

/-- Byte `k` of a value from its most significant end (20_memory R37). -/
theorem bigEndianBytes_getElem? (v : Word) {k : Nat} (hk : k < 4) :
    (bigEndianBytes v)[k]? = some (v.extractLsb' (24 - 8 * k) 8) := by
  interval_cases k <;> rfl

theorem registerDump_length (s : State) : (registerDump s).length = 128 := by
  simp [registerDump, bigEndianBytes]

/-- The dump is one block of four bytes per register, in ascending order (60_exceptions R224, decision D21). -/
theorem registerDump_getElem? (s : State) (i : RegIdx) {k : Nat} (hk : k < 4) :
    (registerDump s)[4 * i.toNat + k]? = some ((s.reg i).extractLsb' (24 - 8 * k) 8) := by
  rw [registerDump, getElem?_flatMap_of_length (c := 4) (fun _ => rfl) _ _ hk, List.getElem?_range i.isLt,
    Option.bind_some, BitVec.ofNat_toNat, BitVec.setWidth_eq, bigEndianBytes_getElem? _ hk]

/-- A dump is written on the halt only (60_exceptions R224). -/
theorem dumpAfterStep_eq_some_iff {s : State} {d : List Byte} :
    dumpAfterStep s = some d ↔ stepOutcome s = some .halt ∧ d = registerDump (stateAfter s) := by
  rw [dumpAfterStep, Option.ite_none_right_eq_some, Option.some_inj, eq_comm (a := d)]

/-- Settles O51: byte by byte, and by the outcome. -/
theorem registerDumpBytes : Obligations.RegisterDumpBytes :=
  ⟨fun s => ⟨registerDump_length s, fun i _ => registerDump_getElem? s i⟩, fun _ _ => dumpAfterStep_eq_some_iff⟩

end Sys2Proof.Machine

/-! The debug controller: what a turn or a command can do to the host, said once, and the statements about the
controller that follow from it. -/

namespace Sys2Proof.Machine

/-! ### What a move of the host can do -/

/-- Whether an event of the cycle loop reports a step. -/
def LoopEvent.reportsStep : LoopEvent → Bool
  | .stepped _ _ _ => true
  | _ => false

/-- Whether the answer to a command reports a step. -/
def Reply.reportsStep : Reply → Bool
  | .resumed e => e.reportsStep
  | _ => false

/-- The two things a move of the host other than a reset or an image load can do, and whether it reports a step
(60_exceptions R226, R228). How the controller's own state changes is left open. -/
inductive MoveEffect (h : HostState) : HostState → Bool → Prop where
  /-- only the controller changes -/
  | controls (session : DebugSession) : MoveEffect h { h with session := session } false
  /-- the core takes one step -/
  | steps (session : DebugSession) :
      MoveEffect h { core := stateAfter h.core, session := session, started := true } true

/-- A turn of the cycle loop changes the controller or lets one step happen. -/
theorem HostState.turn_moveEffect (h : HostState) : MoveEffect h h.turn.1 h.turn.2.reportsStep := by
  unfold HostState.turn
  split
  · exact .controls _
  split
  · exact .controls _
  split
  · exact .controls _
  split
  · exact .controls _
  · exact .steps _

theorem HostState.resume_of_enabled {h : HostState} (henabled : h.core.enabled = true) (budget : Option Nat) :
    h.resume budget = ({ h with session := { h.session with budget := budget } }.cycle.1,
      .resumed { h with session := { h.session with budget := budget } }.cycle.2) := if_pos henabled

theorem HostState.resume_of_disabled {h : HostState} (hdisabled : h.core.enabled = false) (budget : Option Nat) :
    h.resume budget = (h, .resumed .ended) := if_neg (by simp [hdisabled])

/-- Resuming lets one step happen where the core takes one. -/
theorem HostState.resume_moveEffect (h : HostState) (budget : Option Nat) :
    MoveEffect h (h.resume budget).1 (h.resume budget).2.reportsStep := by
  cases henabled : h.core.enabled with
  | true => rw [resume_of_enabled henabled]; exact .steps _
  | false => rw [resume_of_disabled henabled]; exact .controls _

/-- A command other than `reset` changes the controller or lets one step happen. -/
theorem HostState.command_moveEffect (h : HostState) {c : Command} (hc : c ≠ .reset) :
    MoveEffect h (h.command c).1 (h.command c).2.reportsStep := by
  cases c with
  | reset => exact absurd rfl hc
  | run => exact h.resume_moveEffect none
  | step n =>
    simp only [command]
    split
    · exact .controls _
    split
    · exact h.resume_moveEffect _
    · exact .controls _
  | reg i =>
    cases i with
    | none => exact .controls _
    | some i => simp only [command]; split <;> exact .controls _
  | memb a | memh a | memw a =>
    simp only [command, bytesReply]
    split <;> exact .controls _
  | badd a =>
    simp only [command]
    split <;> exact .controls _
  | _ => exact .controls _

theorem MoveEffect.core {h h' : HostState} {stepped : Bool} (heffect : MoveEffect h h' stepped) :
    h'.core = h.core ∨ h'.core = stateAfter h.core := by
  cases heffect with
  | controls => exact .inl rfl
  | steps => exact .inr rfl

/-- A move that reports a step starts a run, and no such move ends one. -/
theorem MoveEffect.started {h h' : HostState} {stepped : Bool} (heffect : MoveEffect h h' stepped) :
    h'.started = (h.started || stepped) := by
  cases heffect with
  | controls => exact (Bool.or_false _).symm
  | steps => exact (Bool.or_true _).symm

/-- Settles O54: a turn or a command is a reset or a move that changes the core by a step at most. -/
theorem controllerNeverChangesAStep : Obligations.ControllerNeverChangesAStep := by
  refine fun h => ⟨h.turn_moveEffect.core, fun c => ?_⟩
  by_cases hc : c = .reset
  · subst hc
    exact .inr (.inr ⟨rfl, rfl⟩)
  · exact (h.command_moveEffect hc).core.imp_right .inl

/-! ### The invariant across the host's moves -/

/-- The state a step leaves meets the invariant, whatever the outcome. -/
theorem State.Inv.stateAfter {s : State} (hinv : s.Inv) : (stateAfter s).Inv := by
  obtain ⟨hnext, hfault, hnoStep⟩ := stepKeepsInvariant s hinv
  unfold Machine.stateAfter outcomeState
  split
  · next t h => exact hnext t h
  · next h => exact hfault _ _ _ h
  · next h => exact hnoStep _ h
  · exact hinv

theorem State.Inv.hostReset {s : State} (hinv : s.Inv) : (hostReset s).Inv :=
  State.resetWith_inv hinv.size_min hinv.size_max

theorem State.Inv.withImage {s : State} (hinv : s.Inv) {bytes : List Byte} (hle : bytes.length ≤ s.memSize) :
    (s.withImage bytes).Inv :=
  { hinv with
    mem_wf := Memory.wf_writeBytes hinv.mem_wf _ _
    mem_below := Memory.below_writeBytes hinv.mem_below ((Nat.zero_add _).trans_le hle) }

/-- The copy of an image keeps the invariant. -/
theorem loadImage_keeps_inv {image : Option (List Byte)} {s t : State} (hinv : s.Inv)
    (h : loadImage image s = .ok t) : t.Inv := by
  obtain ⟨bytes, hle, rfl⟩ := loadImage_ok h
  exact hinv.withImage hle

/-- An image load of the host that succeeds is a copy into the core. -/
theorem HostState.load_ok {h h' : HostState} {image : Option (List Byte)} (hload : h.load image = some (.ok h')) :
    loadImage image h.core = .ok h'.core := by
  unfold HostState.load at hload
  split at hload
  · cases hload
  · cases hcopy : loadImage image h.core with
    | error e => rw [hcopy] at hload; cases hload
    | ok t => rw [hcopy] at hload; cases hload; rfl

/-- Settles O4: each move leaves the core alone, or takes it through a step, a reset or the copy of an image. -/
theorem hostMovesKeepInvariant : Obligations.HostMovesKeepInvariant := by
  refine ⟨fun h hinv => ⟨?turn, fun c => ?command, fun image h' hload => ?load⟩, fun _ _ _ => loadImage_keeps_inv⟩
  case turn =>
    obtain hcore | hcore := (controllerNeverChangesAStep h).1
    · exact hcore ▸ hinv
    · exact hcore ▸ hinv.stateAfter
  case command =>
    obtain hcore | hcore | ⟨-, hcore⟩ := (controllerNeverChangesAStep h).2 c
    · exact hcore ▸ hinv
    · exact hcore ▸ hinv.stateAfter
    · exact hcore ▸ hinv.hostReset
  case load => exact loadImage_keeps_inv hinv (HostState.load_ok hload)

/-! ### The breakpoint -/

/-- The host at the prompt a breakpoint forced: no budget is left (60_exceptions R227). -/
def HostState.atBreakpointPrompt (h : HostState) : HostState :=
  { h with session := { h.session with budget := some 0, awaitingInput := true } }

/-- At a breakpoint the turn takes no step and prompts (60_exceptions R227). -/
theorem HostState.turn_of_breakpoint {h : HostState} (henabled : h.core.enabled = true)
    (hawaiting : h.session.awaitingInput = false) (hpc : h.core.pc ∈ h.session.breakpoints) :
    h.turn = (h.atBreakpointPrompt, .prompted true) := by
  simp [turn, atBreakpointPrompt, henabled, hawaiting, hpc]

/-- At a prompt the loop waits (60_exceptions R227). -/
theorem HostState.turn_of_awaitingInput {h : HostState} (henabled : h.core.enabled = true)
    (hawaiting : h.session.awaitingInput = true) : h.turn = (h, .blocked) := by
  simp [turn, henabled, hawaiting]

/-- The step command without a count takes one step of an enabled core (60_exceptions R231). -/
theorem HostState.command_step_none {h : HostState} (henabled : h.core.enabled = true) :
    (h.command (.step none)).1 = { h with session := { h.session with budget := some 1 } }.cycle.1 :=
  congrArg Prod.fst (resume_of_enabled henabled (some 1))

/-- Settles O55: the turn prompts at the core it found, and the command steps that core with a budget of 1. -/
theorem breakpointPromptsOnceThenResumes : Obligations.BreakpointPromptsOnceThenResumes := by
  intro h henabled hawaiting hpc
  rw [HostState.turn_of_breakpoint henabled hawaiting hpc]
  have hblocked : h.atBreakpointPrompt.turn = _ := HostState.turn_of_awaitingInput henabled rfl
  have hstep := HostState.command_step_none (h := h.atBreakpointPrompt) henabled
  exact ⟨rfl, rfl, rfl, rfl, congrArg Prod.snd hblocked, congrArg (·.core) hstep, congrArg (·.session.budget) hstep⟩

/-! ### The run and the reset -/

/-- Once a step was taken the image load is no move (60_exceptions R232). -/
theorem HostState.load_of_started {h : HostState} (hstarted : h.started = true) (image : Option (List Byte)) :
    h.load image = none := if_pos hstarted

/-- After reset the image load is the launch, with the controller as reset left it (70_reset R246, R248). -/
theorem HostState.load_command_reset (h : HostState) (bytes : List Byte) : (h.command .reset).1.load (some bytes) =
    some ((launch h.core.memSize bytes).map fun core => { (h.command .reset).1 with core := core }) := rfl

theorem launch_of_le {n : Nat} {bytes : List Byte} (h : bytes.length ≤ n) :
    launch n bytes = .ok ((State.resetWith n).withImage bytes) := loadImage_of_le h

theorem launch_of_lt {n : Nat} {bytes : List Byte} (h : n < bytes.length) : launch n bytes = .error .tooLarge :=
  loadImage_of_lt h

/-- Settles O57: a run starts with a step reported and ends with `reset`, which leaves the state an image is launched
from. -/
theorem midRunTheHostOnlyResets : Obligations.MidRunTheHostOnlyResets := by
  refine fun h => ⟨fun hstarted => ⟨HostState.load_of_started hstarted, ?turn, fun c hc => ?command⟩,
    fun o e d hevent => ?turnStepped, fun c o e d hreply => ?commandStepped, fun bytes hle => ?loads,
    fun bytes hlt => ?tooLarge⟩
  case turn => rw [h.turn_moveEffect.started, hstarted, Bool.true_or]
  case command => rw [(h.command_moveEffect hc).started, hstarted, Bool.true_or]
  case turnStepped => rw [h.turn_moveEffect.started, hevent, LoopEvent.reportsStep, Bool.or_true]
  case commandStepped =>
    have hc : c ≠ .reset := by rintro rfl; cases hreply
    rw [(h.command_moveEffect hc).started, hreply, Reply.reportsStep, LoopEvent.reportsStep, Bool.or_true]
  case loads =>
    rw [HostState.load_command_reset, launch_of_le hle]
    exact ⟨_, rfl, rfl, rfl⟩
  case tooLarge =>
    rw [HostState.load_command_reset, launch_of_lt hlt]
    rfl

/-- Settles O53: the command's core is the reset state of the size it had, and its breakpoints are the old ones. -/
theorem hostResetRestarts : Obligations.HostResetRestarts := fun _ _ hmax =>
  ⟨rfl, rfl, State.resetWith_reg_two_toNat hmax, rfl⟩

end Sys2Proof.Machine
